-- ==== Sys2Proof/Word.lean ====
section
/-! DEFINITION. The word types of the block: widths of 00_scope.md R8, 30_encoding.md R80, R87, R93, R94. -/

namespace Sys2Proof

/-- An input byte `b[7:0]` (30_encoding.md R80) and the content of one queue slot (10_state.md R20). -/
abbrev Byte := BitVec 8

/-- A 7-bit value: note, velocity, controller number or controller value (00_scope.md R8). -/
abbrev Data7 := BitVec 7

/-- A channel number 1 to 16, held in 5 bits (10_state.md R33). -/
abbrev Channel := BitVec 5

/-- A command word `OP[23:16] A[15:8] B[7:0]` (30_encoding.md R87). -/
abbrev CmdWord := BitVec 24

/-- A response word `r[15:0]` (30_encoding.md R93). -/
abbrev RespWord := BitVec 16

/-- An event word `e[26:0]` (30_encoding.md R94). -/
abbrev EventWord := BitVec 27

end Sys2Proof
end

