-- ==== Sys2Proof/Config.lean ====
section
/-! DEFINITION. The parameters of a launch (00_scope.md R6, R7) and the block's two free values. -/

namespace Sys2Proof

/-- `P_FEED_PATH`: which port feeds the decoder (00_scope.md R6). -/
inductive FeedPath where
  | queued   -- bytes go through ByteQueue, C feeds the decoder
  | direct   -- P feeds the decoder
deriving DecidableEq, Repr

/-- The parameters of a launch, "fixed for the life of a model instance" (00_scope.md R6). -/
structure Params where
  qcap             : Nat       -- P_QCAP
  trkCap           : Nat       -- P_TRK_CAP
  defaultNote      : Data7     -- P_DEFAULT_NOTE
  zeroRefNote      : Data7     -- P_ZERO_REF_NOTE
  initChannel      : Channel   -- P_INIT_CHANNEL
  initOmni         : Bool      -- P_INIT_OMNI
  scClearsRs       : Bool      -- P_SC_CLEARS_RS
  errResetsTracker : Bool      -- P_ERR_RESETS_TRACKER
  feedPath         : FeedPath  -- P_FEED_PATH
deriving DecidableEq, Repr

/-- FREE VALUE: `P_DEFAULT_NOTE`, "OPEN, any value 0..127" (00_scope.md R6; log entry 6). -/
opaque Config.defaultNote : Data7

/-- FREE VALUE: `P_ZERO_REF_NOTE`, "OPEN, any value 0..127" (00_scope.md R6; log entry 7). -/
opaque Config.zeroRefNote : Data7

/-- The values of the table of 00_scope.md R6. -/
def Params.default : Params where
  qcap := 120
  trkCap := 25
  defaultNote := Config.defaultNote
  zeroRefNote := Config.zeroRefNote
  initChannel := 1#5
  initOmni := false
  scClearsRs := true
  errResetsTracker := false
  feedPath := .queued

/-- Legal parameters: the range of `P_QCAP` (00_scope.md R7); the notes are in range by their type.
DEDUCED (log entry 8): the held count fits its 5 bits (R41) and the initial channel is 1 to 16 (R33). -/
def Params.legal (p : Params) : Bool :=
  2 ≤ p.qcap && p.qcap ≤ 65536 && p.trkCap ≤ 31 && 1 ≤ p.initChannel.toNat && p.initChannel.toNat ≤ 16

/-- `W_IDX = ceil(log2(P_QCAP))`, the width of a queue index (00_scope.md R8), for `P_QCAP ≥ 2`. -/
def Params.idxWidth (p : Params) : Nat := Nat.log2 (p.qcap - 1) + 1

/-- The numbers a host chooses for a launch, before the check of 00_scope.md R7. -/
structure LaunchParams where
  qcap             : Nat
  trkCap           : Nat
  defaultNote      : Nat
  zeroRefNote      : Nat
  initChannel      : Nat
  initOmni         : Bool
  scClearsRs       : Bool
  errResetsTracker : Bool
  feedPath         : FeedPath
deriving DecidableEq, Repr

end Sys2Proof
end

