-- ==== Sys2Proof/Syntax.lean ====
section
/-! DEFINITION. The instructions: one constructor per row of opcode_table.json (30_encoding.md R81, R88). -/

namespace Sys2Proof

/-- The two agents, one per port (00_scope.md R12). -/
inductive Agent where
  | P   -- the producer port, the interrupt context
  | C   -- the consumer port, the cooperative context
deriving DecidableEq, Repr

/-- An instruction: an input byte of one of the ten MIDI8 classes with its free bits (30_encoding.md R81), or
one of the 21 commands with its operand bytes as the word holds them (R88). Operand ranges (R90) are checked
after decoding and are no part of the syntax. -/
inductive Instr where
  | midiRealtime (r : BitVec 3)
  | midiSysCommon (k : BitVec 3)
  | midiNoteOff (c : BitVec 4)
  | midiNoteOn (c : BitVec 4)
  | midiStatusA (c : BitVec 4)
  | midiControlChange (c : BitVec 4)
  | midiStatusC (c : BitVec 4)
  | midiStatusD (c : BitVec 4)
  | midiPitchBend (c : BitVec 4)
  | midiData (d : Data7)
  | qInit
  | qPush (a : Byte)
  | qPop
  | qPeek
  | qIsFull
  | qIsEmpty
  | decFeed (a : Byte)
  | decReset
  | decSetChannel (a : Byte)
  | decSetOmni (a : Byte)
  | decGetChannel
  | decGetOmni
  | decSetCallback (a b : Byte)
  | trkNoteOn (a b : Byte)
  | trkNoteOff (a : Byte)
  | trkHeldCount
  | trkSoundingNote
  | trkReset
  | topUpdate
  | topRxError
  | topGetGate
deriving DecidableEq, Repr

end Sys2Proof
end

