-- ==== Sys2Proof/WellFormed.lean ====
section
/-! DEFINITION. Which instructions are well formed: the operand ranges of 30_encoding.md R90. Every instruction
has an encoding; one that is not well formed raises `F_OPERAND` when an admitted agent issues it. -/

namespace Sys2Proof

/-- The operand ranges of 30_encoding.md R90; an instruction the rule does not name has none. -/
def Instr.wellFormed : Instr → Bool
  | .midiRealtime _ => true
  | .midiSysCommon _ => true
  | .midiNoteOff _ => true
  | .midiNoteOn _ => true
  | .midiStatusA _ => true
  | .midiControlChange _ => true
  | .midiStatusC _ => true
  | .midiStatusD _ => true
  | .midiPitchBend _ => true
  | .midiData _ => true
  | .qInit => true
  | .qPush _ => true
  | .qPop => true
  | .qPeek => true
  | .qIsFull => true
  | .qIsEmpty => true
  | .decFeed _ => true
  | .decReset => true
  | .decSetChannel a => decide (1 ≤ a.toNat ∧ a.toNat ≤ 16)
  | .decSetOmni a => decide (a.toNat ≤ 1)
  | .decGetChannel => true
  | .decGetOmni => true
  | .decSetCallback a b =>
      decide (a.toNat ≤ 4 ∧ b.toNat ≤ 2 ∧ (b.toNat = 2 → a.toNat = 0 ∨ a.toNat = 1))
  | .trkNoteOn a b => decide (a.toNat ≤ 127 ∧ b.toNat ≤ 127)
  | .trkNoteOff a => decide (a.toNat ≤ 127)
  | .trkHeldCount => true
  | .trkSoundingNote => true
  | .trkReset => true
  | .topUpdate => true
  | .topRxError => true
  | .topGetGate => true

end Sys2Proof
end

