-- ==== Sys2Proof/Decode.lean ====
section
/-! DEFINITION. Decoding and encoding of the two formats: MIDI8 (30_encoding.md R81) and CMD24 (R87 to R92). -/

namespace Sys2Proof

/-- A code as the hardware holds it: an input byte or a command word (00_scope.md R3). -/
inductive Code where
  | byte (b : Byte)
  | cmd (w : CmdWord)
deriving DecidableEq, Repr

/-- Why a command word is illegal (30_encoding.md R89); both raise `F_ILLEGAL`. -/
inductive DecodeError where
  | badOpcode       -- the opcode is not in the table of R88
  | reservedField   -- a field the table marks 0 is not zero
deriving DecidableEq, Repr

/-- The class of an input byte, tested by the match and mask columns of 30_encoding.md R81 in its priority
order. Total: every byte has a class (R80, R86). -/
def decodeByte (b : Byte) : Instr :=
  if b &&& 0xF8#8 = 0xF8#8 then .midiRealtime (b.extractLsb' 0 3)
  else if b &&& 0xF8#8 = 0xF0#8 then .midiSysCommon (b.extractLsb' 0 3)
  else if b &&& 0xF0#8 = 0x80#8 then .midiNoteOff (b.extractLsb' 0 4)
  else if b &&& 0xF0#8 = 0x90#8 then .midiNoteOn (b.extractLsb' 0 4)
  else if b &&& 0xF0#8 = 0xA0#8 then .midiStatusA (b.extractLsb' 0 4)
  else if b &&& 0xF0#8 = 0xB0#8 then .midiControlChange (b.extractLsb' 0 4)
  else if b &&& 0xF0#8 = 0xC0#8 then .midiStatusC (b.extractLsb' 0 4)
  else if b &&& 0xF0#8 = 0xD0#8 then .midiStatusD (b.extractLsb' 0 4)
  else if b &&& 0xF0#8 = 0xE0#8 then .midiPitchBend (b.extractLsb' 0 4)
  else .midiData (b.extractLsb' 0 7)

/-- How a row of 30_encoding.md R88 reads its fields A and B: both reserved, B reserved, or both operands. -/
inductive RowShape where
  | none (i : Instr)
  | a (f : Byte → Instr)
  | ab (f : Byte → Byte → Instr)

/-- The opcode map of 30_encoding.md R88, row by row. -/
def opcodeTable : List (Byte × RowShape) := [
  (0x10#8, .none .qInit),
  (0x11#8, .a .qPush),
  (0x12#8, .none .qPop),
  (0x13#8, .none .qPeek),
  (0x14#8, .none .qIsFull),
  (0x15#8, .none .qIsEmpty),
  (0x20#8, .a .decFeed),
  (0x21#8, .none .decReset),
  (0x22#8, .a .decSetChannel),
  (0x23#8, .a .decSetOmni),
  (0x24#8, .none .decGetChannel),
  (0x25#8, .none .decGetOmni),
  (0x26#8, .ab .decSetCallback),
  (0x30#8, .ab .trkNoteOn),
  (0x31#8, .a .trkNoteOff),
  (0x32#8, .none .trkHeldCount),
  (0x33#8, .none .trkSoundingNote),
  (0x34#8, .none .trkReset),
  (0x40#8, .none .topUpdate),
  (0x41#8, .none .topRxError),
  (0x42#8, .none .topGetGate)]

/-- The row of an opcode; an opcode the table does not list has none (30_encoding.md R91). -/
def opcodeMap (op : Byte) : Option RowShape := (opcodeTable.find? (fun row => row.1 == op)).map Prod.snd

/-- The fields of a command word (30_encoding.md R87). -/
def opField (w : CmdWord) : Byte := w.extractLsb' 16 8
def aField (w : CmdWord) : Byte := w.extractLsb' 8 8
def bField (w : CmdWord) : Byte := w.extractLsb' 0 8

/-- Decoding a command word (30_encoding.md R89): an opcode outside the map, or a reserved field that is not
zero, is illegal; otherwise the row's operation with its operands. -/
def decodeCmd (w : CmdWord) : Except DecodeError Instr :=
  match opcodeMap (opField w) with
  | none => .error .badOpcode
  | some (.none i) => if aField w = 0#8 ∧ bField w = 0#8 then .ok i else .error .reservedField
  | some (.a f) => if bField w = 0#8 then .ok (f (aField w)) else .error .reservedField
  | some (.ab f) => .ok (f (aField w) (bField w))

/-- Decoding of either format; an input byte never fails to decode (30_encoding.md R86). -/
def decode : Code → Except DecodeError Instr
  | .byte b => .ok (decodeByte b)
  | .cmd w => decodeCmd w

/-- A command word from its fields, `(OP << 16) | (A << 8) | B` (30_encoding.md R95). -/
def cmdOf (op a b : Byte) : CmdWord := BitVec.ofNat 24 (op.toNat * 65536 + a.toNat * 256 + b.toNat)

/-- A channel status byte from its message-type nibble and its channel field (30_encoding.md R82). -/
def statusOf (kind c : BitVec 4) : Byte := kind ++ c

/-- The code of an instruction: the encoding columns of 30_encoding.md R81 and R88. -/
def encode : Instr → Code
  | .midiRealtime r => .byte (0b11111#5 ++ r)
  | .midiSysCommon k => .byte (0b11110#5 ++ k)
  | .midiNoteOff c => .byte (statusOf 0x8#4 c)
  | .midiNoteOn c => .byte (statusOf 0x9#4 c)
  | .midiStatusA c => .byte (statusOf 0xA#4 c)
  | .midiControlChange c => .byte (statusOf 0xB#4 c)
  | .midiStatusC c => .byte (statusOf 0xC#4 c)
  | .midiStatusD c => .byte (statusOf 0xD#4 c)
  | .midiPitchBend c => .byte (statusOf 0xE#4 c)
  | .midiData d => .byte (0#1 ++ d)
  | .qInit => .cmd (cmdOf 0x10#8 0#8 0#8)
  | .qPush a => .cmd (cmdOf 0x11#8 a 0#8)
  | .qPop => .cmd (cmdOf 0x12#8 0#8 0#8)
  | .qPeek => .cmd (cmdOf 0x13#8 0#8 0#8)
  | .qIsFull => .cmd (cmdOf 0x14#8 0#8 0#8)
  | .qIsEmpty => .cmd (cmdOf 0x15#8 0#8 0#8)
  | .decFeed a => .cmd (cmdOf 0x20#8 a 0#8)
  | .decReset => .cmd (cmdOf 0x21#8 0#8 0#8)
  | .decSetChannel a => .cmd (cmdOf 0x22#8 a 0#8)
  | .decSetOmni a => .cmd (cmdOf 0x23#8 a 0#8)
  | .decGetChannel => .cmd (cmdOf 0x24#8 0#8 0#8)
  | .decGetOmni => .cmd (cmdOf 0x25#8 0#8 0#8)
  | .decSetCallback a b => .cmd (cmdOf 0x26#8 a b)
  | .trkNoteOn a b => .cmd (cmdOf 0x30#8 a b)
  | .trkNoteOff a => .cmd (cmdOf 0x31#8 a 0#8)
  | .trkHeldCount => .cmd (cmdOf 0x32#8 0#8 0#8)
  | .trkSoundingNote => .cmd (cmdOf 0x33#8 0#8 0#8)
  | .trkReset => .cmd (cmdOf 0x34#8 0#8 0#8)
  | .topUpdate => .cmd (cmdOf 0x40#8 0#8 0#8)
  | .topRxError => .cmd (cmdOf 0x41#8 0#8 0#8)
  | .topGetGate => .cmd (cmdOf 0x42#8 0#8 0#8)

/-- The command word of a command, as the fault register records it (60_exceptions.md R222). An input byte is
no command and never faults; its byte stands here zero-extended. -/
def commandWord (i : Instr) : CmdWord :=
  match encode i with
  | .cmd w => w
  | .byte b => b.setWidth 24

/-- The host's view of the decoder: a row of 8 bits is an input byte, any longer row a command word. -/
def decodeTableWord (nbits w : Nat) : Option Instr :=
  if nbits ≤ 8 then some (decodeByte (BitVec.ofNat 8 w))
  else match decodeCmd (BitVec.ofNat 24 w) with
    | .ok i => some i
    | .error _ => none

end Sys2Proof
end

