-- ==== Sys2Proof/Machine/State.lean ====
section
/-! DEFINITION. Everything 10_state.md gives the block, as plain data, with its reset (R55, 70_reset_and_hazards.md
R250); and the two ports with the host's words, which the step reads (log entries 1 to 5). -/

namespace Sys2Proof.Machine

/-- The parse states, encoded `IDLE = 0`, `AWAIT1 = 1`, `AWAIT2 = 2` (10_state.md R28). -/
inductive ParseState where
  | idle
  | await1
  | await2
deriving DecidableEq, Repr

/-- The event kinds `K_NOTE_ON = 0` to `K_RT = 4` (10_state.md R37). -/
inductive Kind where
  | noteOn
  | noteOff
  | cc
  | pb
  | rt
deriving DecidableEq, Repr

/-- The callback targets `NONE = 0`, `HOST = 1`, `TRACKER = 2` (10_state.md R38). -/
inductive Target where
  | none
  | host
  | tracker
deriving DecidableEq, Repr

/-- The events (10_state.md R47), with the source's callback arguments. The pitch-bend value is the integer. -/
inductive Event where
  | noteOn (note velocity : Data7) (channel : Channel)
  | noteOff (note velocity : Data7) (channel : Channel)
  | controlChange (controller value : Data7) (channel : Channel)
  | pitchBend (value : Int) (channel : Channel)
  | realTime (status : Byte)
deriving DecidableEq, Repr

/-- The fault reasons, with the cause codes 1, 2, 3 (60_exceptions.md R221). -/
inductive Reason where
  | illegal   -- F_ILLEGAL, code 1
  | operand   -- F_OPERAND, code 2
  | context   -- F_CONTEXT, code 3
deriving DecidableEq, Repr

/-- What the fault register records: `(code, word, agent)` (60_exceptions.md R222). -/
structure FaultRecord where
  reason : Reason
  word   : CmdWord
  agent  : Agent
deriving DecidableEq, Repr

/-- The queue storage: written slots only, by rising slot number. An unlisted slot holds no value (10_state.md
R20; log entry 11). -/
abbrev Memory := List Host.Cell

/-- ByteQueue (10_state.md R20 to R22). -/
structure Queue where
  mem : Memory   -- Q.mem
  wi  : Nat      -- Q.wi
  ri  : Nat      -- Q.ri
deriving DecidableEq, Repr

/-- `D.cb`, one target for each kind (10_state.md R38). -/
structure Callbacks where
  noteOn  : Target
  noteOff : Target
  cc      : Target
  pb      : Target
  rt      : Target
deriving DecidableEq, Repr

/-- MessageDecoder (10_state.md R28 to R38). -/
structure Decoder where
  state : ParseState   -- D.state
  rs    : Byte         -- D.rs, running status, 0 = none
  cs    : Byte         -- D.cs, status in progress
  d1    : Data7        -- D.d1
  d2    : Data7        -- D.d2
  exp   : BitVec 2     -- D.exp, expected data bytes
  chan  : Channel      -- D.chan
  omni  : Bool         -- D.omni
  cb    : Callbacks    -- D.cb
deriving DecidableEq, Repr

/-- One held note: `T.note[i]` with `T.vel[i]` (10_state.md R40). -/
structure Held where
  note : Data7
  vel  : Data7
deriving DecidableEq, Repr

/-- NotePriorityTracker (10_state.md R40 to R42): the held notes, oldest first, `T.n` being their number (log
entry 19), and the latched note. -/
structure Tracker where
  held    : List Held
  latched : Data7
deriving DecidableEq, Repr

/-- One port: the commands the host presented and the block has not yet executed, and the responses it has
returned, oldest first (30_encoding.md R87, R93). -/
structure Port where
  cmds : List CmdWord
  resp : List RespWord
deriving DecidableEq, Repr

/-- The machine. `cfg` is fixed for the launch; `q`, `d`, `t`, `busy`, `fault`, `events` are the block's state
(10_state.md); the rest are the ports and the host's interleaving (20_memory.md R69). -/
structure State where
  cfg    : Params
  q      : Queue
  d      : Decoder
  t      : Tracker
  busy   : Bool                 -- U.busy (R45)
  fault  : Option FaultRecord   -- F (R46)
  events : List Event           -- H.events (R47)
  portP  : Port
  portC  : Port
  turns  : List Agent           -- whose step comes next, chosen by the host
  issuer : Agent                -- the agent whose command is executed (R12)
deriving DecidableEq, Repr

/-- Why the machine stops. -/
inductive Fault where
  /-- Raised by every step and every meaning while the fault register is not NONE: "neither agent has a step"
  (60_exceptions.md R223). Safe: the spec's own stop. -/
  | stopped (r : FaultRecord)
  /-- Raised by a read of a queue slot that no push has written (10_state.md R20, R26; log entry 11), in states
  no run reaches. Safe: the model stops. -/
  | unwrittenSlot (i : Nat)
  /-- Raised by an access to a slot outside `[0, P_QCAP)` (20_memory.md R60; log entry 12), in states no run
  reaches. Safe: the model stops. -/
  | noSuchSlot (i : Nat)
deriving DecidableEq, Repr

/-- Why there is no step, no command having been executed. -/
inductive Refusal where
  /-- Raised by an arm of exec that has no meaning yet. Safe. (No arm raises it.) -/
  | notModelled (mnemonic : String)
  /-- Raised by the step, and by a launch, of illegal parameters: "it has no reset state and no step"
  (00_scope.md R7). Safe. -/
  | illegalConfiguration
  /-- Raised by the step when the host presents no further command, `U.busy` is clear and `F = NONE`: the run
  has ended (70_reset_and_hazards.md R266). Safe. -/
  | runEnded
  /-- Raised by the step when work is left but the host has chosen no further turn (20_memory.md R69; log
  entry 1). Safe. -/
  | noTurnChosen
deriving DecidableEq, Repr

/-- What one instruction or one step answers. -/
abbrev Result := Host.Outcome State Fault Refusal

/-- The reset value of every register for given parameters (10_state.md R55). The ports are empty: a program is
presented by the host (log entry 2). -/
def State.resetWith (p : Params) : State where
  cfg := p
  q := { mem := [], wi := 0, ri := 0 }
  d := { state := .idle, rs := 0#8, cs := 0#8, d1 := 0#7, d2 := 0#7, exp := 0#2, chan := p.initChannel,
         omni := p.initOmni,
         cb := { noteOn := .tracker, noteOff := .tracker, cc := .none, pb := .none, rt := .none } }
  t := { held := [], latched := p.defaultNote }
  busy := false
  fault := none
  events := []
  portP := { cmds := [], resp := [] }
  portC := { cmds := [], resp := [] }
  turns := []
  issuer := .C

/-- Block reset with the default parameters (70_reset_and_hazards.md R250). -/
def State.reset : State := State.resetWith Params.default

/-- The port of an agent. -/
def State.port (s : State) : Agent → Port
  | .P => s.portP
  | .C => s.portC

/-! The named updates: every meaning writes State through one of these. -/

def State.withQ (s : State) (q : Queue) : State := { s with q := q }
def State.withD (s : State) (d : Decoder) : State := { s with d := d }
def State.withT (s : State) (t : Tracker) : State := { s with t := t }
def State.withBusy (s : State) (b : Bool) : State := { s with busy := b }
def State.withFault (s : State) (f : Option FaultRecord) : State := { s with fault := f }
def State.withEvents (s : State) (e : List Event) : State := { s with events := e }
def State.withTurns (s : State) (l : List Agent) : State := { s with turns := l }
def State.withIssuer (s : State) (a : Agent) : State := { s with issuer := a }
def State.withPort (s : State) (a : Agent) (p : Port) : State :=
  match a with
  | .P => { s with portP := p }
  | .C => { s with portC := p }

end Sys2Proof.Machine
end

