-- ==== Sys2Proof/Machine/Memory.lean ====
section
/-! DEFINITION. The queue storage as a list of written slots in one canonical form (10_state.md R20, 20_memory.md
R60 to R62). -/

namespace Sys2Proof.Machine

/-- The canonical form: slot numbers strictly rising. An unlisted slot holds no value, so no entry can equal what
an unlisted slot reads as. -/
abbrev memWf (m : Memory) : Prop := m.Pairwise (fun x y => x.1 < y.1)

/-- The value of slot `i`; none where no push has written it. -/
def memGet : Memory → Nat → Option Byte
  | [], _ => none
  | (a, b) :: m, i => if a = i then some b else memGet m i

/-- The storage after slot `i` was given the value `v`. -/
def memSet : Memory → Nat → Byte → Memory
  | [], i, v => [(i, v)]
  | (a, b) :: m, i, v =>
    if i < a then (i, v) :: (a, b) :: m
    else if a = i then (i, v) :: m
    else (a, b) :: memSet m i v

/-- `MemRead(i, 1)` (00_scope.md R10, 20_memory.md R62). A slot outside `[0, P_QCAP)` does not exist; a slot no
push has written holds no value. Neither is read from a state a run reaches (10_state.md R26). -/
def memRead (i : Nat) (s : State) : Except Fault Byte :=
  if s.cfg.qcap ≤ i then .error (.noSuchSlot i)
  else match memGet s.q.mem i with
    | some b => .ok b
    | none => .error (.unwrittenSlot i)

/-- `MemWrite(i, 1, v)` (00_scope.md R10, 20_memory.md R62). -/
def memWrite (i : Nat) (v : Byte) (s : State) : Except Fault State :=
  if s.cfg.qcap ≤ i then .error (.noSuchSlot i)
  else .ok (s.withQ { s.q with mem := memSet s.q.mem i v })

end Sys2Proof.Machine
end

