-- ==== Sys2Proof/Machine/Flags.lean ====
section
/-! DEFINITION. The block's computed flags: `Q.empty`, `Q.full` and `gate` (10_state.md R23, R24, R48), with the
occupancy (R25), the queued bytes (R26) and the computed tracker values (R41, R44, R49). None is stored. -/

namespace Sys2Proof.Machine

/-- Advancing a queue index: `(i + 1) mod P_QCAP` (10_state.md R24). -/
def advance (cap i : Nat) : Nat := (i + 1) % cap

/-- `Q.empty` (10_state.md R23). -/
def qEmpty (s : State) : Bool := s.q.wi == s.q.ri

/-- `Q.full` (10_state.md R24). -/
def qFull (s : State) : Bool := advance s.cfg.qcap s.q.wi == s.q.ri

/-- `Q.count = (Q.wi - Q.ri) mod P_QCAP`, the non-negative remainder (10_state.md R25, 00_scope.md R9). -/
def qCount (s : State) : Nat := (((s.q.wi : Int) - (s.q.ri : Int)) % (s.cfg.qcap : Int)).toNat

/-- The queued bytes' slots, oldest first: `Q.mem[(Q.ri + k) mod P_QCAP]` for `k` below the count (10_state.md
R26). -/
def queuedSlots (s : State) : List Nat :=
  (List.range (qCount s)).map (fun k => (s.q.ri + k) % s.cfg.qcap)

/-- The queued bytes, oldest first (10_state.md R26); in a state a run reaches every such slot was written, so none is
left out. -/
def queuedBytes (s : State) : List Byte := (queuedSlots s).filterMap (memGet s.q.mem)

/-- `T.n` (10_state.md R41). -/
def heldCount (t : Tracker) : Nat := t.held.length

/-- `T.sounding`: the most recently added held note, else the latched note (10_state.md R44). -/
def soundingNote (t : Tracker) : Data7 :=
  match t.held.getLast? with
  | some h => h.note
  | none => t.latched

/-- The output `gate` (10_state.md R48). -/
def gate (s : State) : Bool := decide (0 < heldCount s.t)

/-- The output `pitch` (10_state.md R49). -/
def pitch (s : State) : Data7 := soundingNote s.t

end Sys2Proof.Machine
end

