-- ==== Sys2Proof/Machine/Operands.lean ====
section
/-! DEFINITION. Operand forms (30_encoding.md R82, R83, R88, R90), the numberings of kinds and targets
(10_state.md R28, R37, R38) and the response words (30_encoding.md R93). -/

namespace Sys2Proof.Machine

/-- The range check of 30_encoding.md R90 as the machine makes it, after decoding and admission. -/
def operandsInRange : Instr → Bool
  | .midiRealtime _ => true
  | .midiSysCommon _ => true
  | .midiNoteOff _ => true
  | .midiNoteOn _ => true
  | .midiStatusA _ => true
  | .midiControlChange _ => true
  | .midiStatusC _ => true
  | .midiStatusD _ => true
  | .midiPitchBend _ => true
  | .midiData _ => true
  | .qInit => true
  | .qPush _ => true
  | .qPop => true
  | .qPeek => true
  | .qIsFull => true
  | .qIsEmpty => true
  | .decFeed _ => true
  | .decReset => true
  | .decSetChannel a => !(a < 1#8 || 16#8 < a)
  | .decSetOmni a => !(1#8 < a)
  | .decGetChannel => true
  | .decGetOmni => true
  | .decSetCallback a b => !(4#8 < a || 2#8 < b) && !(b == 2#8 && !(a == 0#8 || a == 1#8))
  | .trkNoteOn a b => !(127#8 < a || 127#8 < b)
  | .trkNoteOff a => !(127#8 < a)
  | .trkHeldCount => true
  | .trkSoundingNote => true
  | .trkReset => true
  | .topUpdate => true
  | .topRxError => true
  | .topGetGate => true

/-- The note or velocity of an operand byte that is at most 127. -/
def operandData (a : Byte) : Data7 := a.setWidth 7

/-- The channel of an operand byte that is 1 to 16. -/
def operandChannel (a : Byte) : Channel := a.setWidth 5

/-- The kind of operand A of `DEC_SET_CALLBACK` (10_state.md R37): "the values 5-255 name no kind". -/
def kindOf (a : Byte) : Option Kind :=
  if a = 0#8 then some .noteOn
  else if a = 1#8 then some .noteOff
  else if a = 2#8 then some .cc
  else if a = 3#8 then some .pb
  else if a = 4#8 then some .rt
  else none

/-- The target of operand B of `DEC_SET_CALLBACK` (10_state.md R38). -/
def targetOf (b : Byte) : Option Target :=
  if b = 0#8 then some .none
  else if b = 1#8 then some .host
  else if b = 2#8 then some .tracker
  else none

/-- The number of a kind (10_state.md R37). -/
def kindCode : Kind → BitVec 3
  | .noteOn => 0#3
  | .noteOff => 1#3
  | .cc => 2#3
  | .pb => 3#3
  | .rt => 4#3

/-- The encoding of a target (10_state.md R38). -/
def targetCode : Target → BitVec 2
  | .none => 0#2
  | .host => 1#2
  | .tracker => 2#2

/-- The encoding of a parse state (10_state.md R28). -/
def parseStateCode : ParseState → BitVec 2
  | .idle => 0#2
  | .await1 => 1#2
  | .await2 => 2#2

/-- The cause code of a fault reason (60_exceptions.md R221). -/
def reasonCode : Reason → Nat
  | .illegal => 1
  | .operand => 2
  | .context => 3

/-- The callback target of a kind (10_state.md R38). -/
def targetFor (cb : Callbacks) : Kind → Target
  | .noteOn => cb.noteOn
  | .noteOff => cb.noteOff
  | .cc => cb.cc
  | .pb => cb.pb
  | .rt => cb.rt

/-- `D.cb[k] <- t`. -/
def setTarget (cb : Callbacks) (k : Kind) (t : Target) : Callbacks :=
  match k with
  | .noteOn => { cb with noteOn := t }
  | .noteOff => { cb with noteOff := t }
  | .cc => { cb with cc := t }
  | .pb => { cb with pb := t }
  | .rt => { cb with rt := t }

/-- The message-type nibble `s[7:4]` of a status byte (30_encoding.md R82). -/
def statusKind (st : Byte) : BitVec 4 := st.extractLsb' 4 4

/-- The callback channel `zext_5(s[3:0]) + 1` of a status byte (30_encoding.md R82). -/
def statusChannel (st : Byte) : Channel := (st.extractLsb' 0 4).setWidth 5 + 1#5

/-- The 7-bit value `b[6:0]` of a data byte (30_encoding.md R83). -/
def dataValue (b : Byte) : Data7 := b.extractLsb' 0 7

/-- `count(s)`, the expected data bytes of a channel status byte (41_message_decoder.md R121); never 1. -/
def expectedCount (st : Byte) : BitVec 2 :=
  if statusKind st = 0x8#4 ∨ statusKind st = 0x9#4 ∨ statusKind st = 0xB#4 ∨ statusKind st = 0xE#4 then 2#2
  else 0#2

/-- The pitch-bend value `(zext_14(d2) << 7 | zext_14(d1)) - 8192` (41_message_decoder.md R146). -/
def bendValue (d1 d2 : Data7) : Int :=
  (((d2.setWidth 14 <<< 7) ||| d1.setWidth 14).toNat : Int) - 8192

/-- The response words (30_encoding.md R93): `bool`, `opt`, `u8`, and no response. -/
def respBool (b : Bool) : RespWord := if b then 1#16 else 0#16
def respOpt : Option Byte → RespWord
  | some v => 0x01#8 ++ v
  | none => 0#16
def respU8 (v : Byte) : RespWord := v.setWidth 16
def respNone : RespWord := 0#16

end Sys2Proof.Machine
end

