-- ==== Sys2Proof/Machine/Ops.lean ====
section
/-! DEFINITION. The operations the instructions share: the response, the fault entry, the common checks of a
command, and the queue's push and pop. -/

namespace Sys2Proof.Machine

/-- A command that completes returns its response word to its port (30_encoding.md R93; log entry 4). -/
def respond (r : RespWord) (s : State) : State :=
  s.withPort s.issuer { s.port s.issuer with resp := (s.port s.issuer).resp ++ [r] }

/-- Fault entry, the block's one exception entry (60_exceptions.md R222): the fault register records the cause, the
command word and the issuing agent; no other state is written and no response is returned. There is no handler, no
saved state and no return (R223, R230). -/
def raiseFault (r : Reason) (w : CmdWord) (s : State) : State :=
  s.withFault (some { reason := r, word := w, agent := s.issuer })

/-- Which agent may issue which command (60_exceptions.md R226). An input byte is no command: it is admitted with
the command that feeds it. -/
def admits (p : Params) (a : Agent) : Instr → Bool
  | .midiRealtime _ => true
  | .midiSysCommon _ => true
  | .midiNoteOff _ => true
  | .midiNoteOn _ => true
  | .midiStatusA _ => true
  | .midiControlChange _ => true
  | .midiStatusC _ => true
  | .midiStatusD _ => true
  | .midiPitchBend _ => true
  | .midiData _ => true
  | .qInit => a == .C
  | .qPush _ => a == .P
  | .qPop => a == .C
  | .qPeek => a == .C
  | .qIsFull => true
  | .qIsEmpty => true
  | .decFeed _ => (p.feedPath == .queued && a == .C) || (p.feedPath == .direct && a == .P)
  | .decReset => a == .C
  | .decSetChannel _ => a == .C
  | .decSetOmni _ => a == .C
  | .decGetChannel => a == .C
  | .decGetOmni => a == .C
  | .decSetCallback _ _ => a == .C
  | .trkNoteOn _ _ => a == .C
  | .trkNoteOff _ => a == .C
  | .trkHeldCount => a == .C
  | .trkSoundingNote => a == .C
  | .trkReset => a == .C
  | .topUpdate => p.feedPath == .queued && a == .C
  | .topRxError => a == .C
  | .topGetGate => a == .C

/-- A memory access that does not exist stops the machine. -/
def finish : Except Fault State → Result
  | .ok s => .next s
  | .error f => .fault f

/-- The common checks of a command around its own effect, in the order of 60_exceptions.md R223, R224: the fault
register is NONE, (the word has decoded,) the agent is admitted, the operands are in range. -/
def command (i : Instr) (body : State → Except Fault State) (s : State) : Result :=
  match s.fault with
  | some r => .fault (.stopped r)
  | none =>
    if admits s.cfg s.issuer i then
      if operandsInRange i then finish (body s)
      else .next (raiseFault .operand (commandWord i) s)
    else .next (raiseFault .context (commandWord i) s)

/-- The effect of an input byte, inside the command or drain step that feeds it: no check but the sticky fault
register's (60_exceptions.md R223, 30_encoding.md R86). -/
def inputByte (body : State → State) (s : State) : Result :=
  match s.fault with
  | some r => .fault (.stopped r)
  | none => .next (body s)

/-- `Q_PUSH`'s effect (40_byte_queue.md R101): answers whether the byte was queued; a full queue drops it. -/
def pushByte (b : Byte) (s : State) : Except Fault (Bool × State) :=
  if qFull s then .ok (false, s)
  else (memWrite s.q.wi b s).map
    (fun s' => (true, s'.withQ { s'.q with wi := advance s.cfg.qcap s.q.wi }))

/-- Remove the oldest byte, the slot being read before the index advances (40_byte_queue.md R102, 20_memory.md R70);
none on an empty queue. -/
def popByte (s : State) : Except Fault (Option Byte × State) :=
  if qEmpty s then .ok (none, s)
  else (memRead s.q.ri s).map
    (fun b => (some b, s.withQ { s.q with ri := advance s.cfg.qcap s.q.ri }))

end Sys2Proof.Machine
end

