-- ==== Sys2Proof/Machine/ByteQueue.lean ====
section
/-! DEFINITION. The ByteQueue commands (40_byte_queue.md). -/

namespace Sys2Proof.Machine

/-- `Q_INIT` (40_byte_queue.md R100): both indices to 0; the storage is not written. -/
def execQInit (s : State) : Result :=
  command .qInit (fun s => .ok (respond respNone (s.withQ { s.q with wi := 0, ri := 0 }))) s

/-- `Q_PUSH byte` (40_byte_queue.md R101, R106). -/
def execQPush (a : Byte) (s : State) : Result :=
  command (.qPush a) (fun s => (pushByte a s).map (fun r => respond (respBool r.1) r.2)) s

/-- `Q_POP` (40_byte_queue.md R102). -/
def execQPop (s : State) : Result :=
  command .qPop (fun s => (popByte s).map (fun r => respond (respOpt r.1) r.2)) s

/-- `Q_PEEK` (40_byte_queue.md R103): the oldest byte, not removed. -/
def execQPeek (s : State) : Result :=
  command .qPeek
    (fun s =>
      if qEmpty s then .ok (respond (respOpt none) s)
      else (memRead s.q.ri s).map (fun b => respond (respOpt (some b)) s)) s

/-- `Q_IS_FULL` (40_byte_queue.md R104). -/
def execQIsFull (s : State) : Result :=
  command .qIsFull (fun s => .ok (respond (respBool (qFull s)) s)) s

/-- `Q_IS_EMPTY` (40_byte_queue.md R105). -/
def execQIsEmpty (s : State) : Result :=
  command .qIsEmpty (fun s => .ok (respond (respBool (qEmpty s)) s)) s

end Sys2Proof.Machine
end

