-- ==== Sys2Proof/Machine/NoteTracker.lean ====
section
/-! DEFINITION. The NotePriorityTracker operations and commands (42_note_tracker.md). -/

namespace Sys2Proof.Machine

/-- Whether a note is held: "exists i < T.n with T.note[i] == n" (42_note_tracker.md R170). -/
def isHeld (n : Data7) (t : Tracker) : Bool := t.held.any (fun h => h.note == n)

/-- `tracker_note_on(n, v)` (42_note_tracker.md R170, R171): a duplicate and a note beyond the capacity are no-ops;
otherwise the note goes to the end and is latched. -/
def trackerNoteOn (cap : Nat) (n v : Data7) (t : Tracker) : Tracker :=
  if isHeld n t then t
  else if heldCount t == cap then t
  else { held := t.held ++ [{ note := n, vel := v }], latched := n }

/-- `tracker_note_off(n)` (42_note_tracker.md R172): an absent note is a no-op; otherwise it is removed, the others
keep their order, and a remaining last note is latched. -/
def trackerNoteOff (n : Data7) (t : Tracker) : Tracker :=
  if isHeld n t then
    let rest := t.held.eraseP (fun h => h.note == n)
    { held := rest, latched := soundingNote { held := rest, latched := t.latched } }
  else t

/-- `TRK_RESET`'s effect (42_note_tracker.md R175). -/
def trackerReset (p : Params) : Tracker := { held := [], latched := p.defaultNote }

/-- `TRK_NOTE_ON note, velocity` (42_note_tracker.md R170). -/
def execTrkNoteOn (a b : Byte) (s : State) : Result :=
  command (.trkNoteOn a b)
    (fun s => .ok (respond respNone
      (s.withT (trackerNoteOn s.cfg.trkCap (operandData a) (operandData b) s.t)))) s

/-- `TRK_NOTE_OFF note` (42_note_tracker.md R172). -/
def execTrkNoteOff (a : Byte) (s : State) : Result :=
  command (.trkNoteOff a)
    (fun s => .ok (respond respNone (s.withT (trackerNoteOff (operandData a) s.t)))) s

/-- `TRK_HELD_COUNT` (42_note_tracker.md R173). -/
def execTrkHeldCount (s : State) : Result :=
  command .trkHeldCount (fun s => .ok (respond (respU8 (BitVec.ofNat 8 (heldCount s.t))) s)) s

/-- `TRK_SOUNDING_NOTE` (42_note_tracker.md R174). -/
def execTrkSoundingNote (s : State) : Result :=
  command .trkSoundingNote (fun s => .ok (respond (respU8 ((soundingNote s.t).setWidth 8)) s)) s

/-- `TRK_RESET` (42_note_tracker.md R175). -/
def execTrkReset (s : State) : Result :=
  command .trkReset (fun s => .ok (respond respNone (s.withT (trackerReset s.cfg)))) s

end Sys2Proof.Machine
end

