-- ==== Sys2Proof/Machine/MessageDecoder.lean ====
section
/-! DEFINITION. The decoder's byte sequencer, dispatch and delivery, the ten input byte classes and the MessageDecoder
commands (41_message_decoder.md). -/

namespace Sys2Proof.Machine

/-- The kind of an event (10_state.md R37). -/
def eventKind : Event → Kind
  | .noteOn _ _ _ => .noteOn
  | .noteOff _ _ _ => .noteOff
  | .controlChange _ _ _ => .cc
  | .pitchBend _ _ => .pb
  | .realTime _ => .rt

/-- `TRACKER` delivery (41_message_decoder.md R150): note events drive the tracker; the rule has no case for another
kind, which can never have this target (30_encoding.md R90; log entry 13). -/
def deliverToTracker (ev : Event) (s : State) : State :=
  match ev with
  | .noteOn n v _ => s.withT (trackerNoteOn s.cfg.trkCap n v s.t)
  | .noteOff n _ _ => s.withT (trackerNoteOff n s.t)
  | .controlChange _ _ _ => s
  | .pitchBend _ _ => s
  | .realTime _ => s

/-- `deliver(ev)` by the target of its kind (41_message_decoder.md R150). -/
def deliver (ev : Event) (s : State) : State :=
  match targetFor s.d.cb (eventKind ev) with
  | .none => s
  | .host => s.withEvents (s.events ++ [ev])
  | .tracker => deliverToTracker ev s

/-- The event of a completed message (41_message_decoder.md R145 to R149); none for a zero-data status (R151). -/
def messageEvent (st : Byte) (d1 d2 : Data7) : Option Event :=
  if statusKind st = 0x8#4 then some (.noteOff d1 d2 (statusChannel st))
  else if statusKind st = 0x9#4 then
    if d2 = 0#7 then some (.noteOff d1 0#7 (statusChannel st)) else some (.noteOn d1 d2 (statusChannel st))
  else if statusKind st = 0xB#4 then some (.controlChange d1 d2 (statusChannel st))
  else if statusKind st = 0xE#4 then some (.pitchBend (bendValue d1 d2) (statusChannel st))
  else none

/-- Whether a message of a channel passes the filter (41_message_decoder.md R145). -/
def passesFilter (st : Byte) (d : Decoder) : Bool := d.omni || statusChannel st == d.chan

/-- `dispatch(s, d1, d2)` (41_message_decoder.md R145). -/
def dispatch (st : Byte) (d1 d2 : Data7) (s : State) : State :=
  if passesFilter st s.d then
    match messageEvent st d1 d2 with
    | some ev => deliver ev s
    | none => s
  else s

/-- `parser_clear()` (41_message_decoder.md R122). -/
def parserClear (d : Decoder) : Decoder :=
  { d with state := .idle, cs := 0#8, d1 := 0#7, d2 := 0#7, exp := 0#2 }

/-- `DEC_RESET`'s effect: `parser_clear` and no running status (41_message_decoder.md R155). -/
def decoderReset (d : Decoder) : Decoder := { parserClear d with rs := 0#8 }

/-- `realtime(b)` (41_message_decoder.md R130). -/
def realtimeByte (b : Byte) (s : State) : State := deliver (.realTime b) s

/-- `syscommon(b)` (41_message_decoder.md R131). -/
def syscommonByte (s : State) : State :=
  s.withD (if s.cfg.scClearsRs then { parserClear s.d with rs := 0#8 } else parserClear s.d)

/-- `status(s)` (41_message_decoder.md R132), in any parse state. -/
def statusByte (st : Byte) (s : State) : State :=
  let d := { s.d with rs := st, cs := st, exp := expectedCount st, d1 := 0#7, d2 := 0#7 }
  if expectedCount st = 0#2 then dispatch st 0#7 0#7 (s.withD { d with state := .idle })
  else s.withD { d with state := .await1 }

/-- `data(b)` (41_message_decoder.md R138, its parts R133 to R137). -/
def dataByte (b : Data7) (s : State) : State :=
  match s.d.state with
  | .idle =>
    if s.d.rs = 0#8 then s.withD (parserClear s.d)
    else if expectedCount s.d.rs = 2#2 then
      s.withD { s.d with cs := s.d.rs, exp := 2#2, d1 := b, d2 := 0#7, state := .await2 }
    else s.withD { s.d with cs := s.d.rs, exp := 0#2, state := .idle }
  | .await1 =>
    if s.d.exp = 1#2 then dispatch s.d.cs b 0#7 (s.withD { s.d with d1 := b, state := .idle })
    else s.withD { s.d with d1 := b, state := .await2 }
  | .await2 => dispatch s.d.cs s.d.d1 b (s.withD { s.d with d2 := b, state := .idle })

/-- `feed_byte(b)`, the classes in their priority order (41_message_decoder.md R120). -/
def feedByte (b : Byte) (s : State) : State :=
  if 0xF8#8 ≤ b then realtimeByte b s
  else if 0xF0#8 ≤ b then syscommonByte s
  else if b.extractLsb' 7 1 = 1#1 then statusByte b s
  else dataByte (dataValue b) s

/-- MIDI_REALTIME (41_message_decoder.md R130). -/
def execMidiRealtime (r : BitVec 3) (s : State) : Result := inputByte (realtimeByte (0b11111#5 ++ r)) s

/-- MIDI_SYSCOMMON (41_message_decoder.md R131): the code is discarded. -/
def execMidiSysCommon (_ : BitVec 3) (s : State) : Result := inputByte syscommonByte s

/-- MIDI_NOTE_OFF (41_message_decoder.md R132, R147). -/
def execMidiNoteOff (c : BitVec 4) (s : State) : Result := inputByte (statusByte (statusOf 0x8#4 c)) s

/-- MIDI_NOTE_ON (41_message_decoder.md R132, R148). -/
def execMidiNoteOn (c : BitVec 4) (s : State) : Result := inputByte (statusByte (statusOf 0x9#4 c)) s

/-- MIDI_STATUS_A (41_message_decoder.md R132, R151). -/
def execMidiStatusA (c : BitVec 4) (s : State) : Result := inputByte (statusByte (statusOf 0xA#4 c)) s

/-- MIDI_CONTROL_CHANGE (41_message_decoder.md R132, R149). -/
def execMidiControlChange (c : BitVec 4) (s : State) : Result := inputByte (statusByte (statusOf 0xB#4 c)) s

/-- MIDI_STATUS_C (41_message_decoder.md R132, R151). -/
def execMidiStatusC (c : BitVec 4) (s : State) : Result := inputByte (statusByte (statusOf 0xC#4 c)) s

/-- MIDI_STATUS_D (41_message_decoder.md R132, R151). -/
def execMidiStatusD (c : BitVec 4) (s : State) : Result := inputByte (statusByte (statusOf 0xD#4 c)) s

/-- MIDI_PITCH_BEND (41_message_decoder.md R132, R146). -/
def execMidiPitchBend (c : BitVec 4) (s : State) : Result := inputByte (statusByte (statusOf 0xE#4 c)) s

/-- MIDI_DATA (41_message_decoder.md R133 to R138). -/
def execMidiData (d : Data7) (s : State) : Result := inputByte (dataByte d) s

/-- `DEC_FEED byte` (41_message_decoder.md R120). -/
def execDecFeed (a : Byte) (s : State) : Result :=
  command (.decFeed a) (fun s => .ok (respond respNone (feedByte a s))) s

/-- `DEC_RESET` (41_message_decoder.md R155). -/
def execDecReset (s : State) : Result :=
  command .decReset (fun s => .ok (respond respNone (s.withD (decoderReset s.d)))) s

/-- `DEC_SET_CHANNEL ch` (41_message_decoder.md R156). -/
def execDecSetChannel (a : Byte) (s : State) : Result :=
  command (.decSetChannel a)
    (fun s => .ok (respond respNone (s.withD { s.d with chan := operandChannel a }))) s

/-- `DEC_SET_OMNI flag` (41_message_decoder.md R157). -/
def execDecSetOmni (a : Byte) (s : State) : Result :=
  command (.decSetOmni a) (fun s => .ok (respond respNone (s.withD { s.d with omni := a == 1#8 }))) s

/-- `DEC_GET_CHANNEL` (41_message_decoder.md R158). -/
def execDecGetChannel (s : State) : Result :=
  command .decGetChannel (fun s => .ok (respond (respU8 (s.d.chan.setWidth 8)) s)) s

/-- `DEC_GET_OMNI` (41_message_decoder.md R159). -/
def execDecGetOmni (s : State) : Result :=
  command .decGetOmni (fun s => .ok (respond (respBool s.d.omni) s)) s

/-- `D.cb[A] <- B` on operands in range (41_message_decoder.md R160). -/
def setCallback (a b : Byte) (d : Decoder) : Decoder :=
  match kindOf a, targetOf b with
  | some k, some t => { d with cb := setTarget d.cb k t }
  | _, _ => d

/-- `DEC_SET_CALLBACK kind, target` (41_message_decoder.md R160). -/
def execDecSetCallback (a b : Byte) (s : State) : Result :=
  command (.decSetCallback a b) (fun s => .ok (respond respNone (s.withD (setCallback a b s.d)))) s

end Sys2Proof.Machine
end

