-- ==== Sys2Proof/Machine/TopLevel.lean ====
section
/-! DEFINITION. The top-level commands (43_top_level.md). -/

namespace Sys2Proof.Machine

/-- The end of `TOP_UPDATE`: a drain step found the queue empty (43_top_level.md R200). -/
def endUpdate (s : State) : State := respond respNone (s.withBusy false)

/-- `drain_step()` inside `TOP_UPDATE` (43_top_level.md R200, R201): one pop and one feed, `U.busy` staying set; an
empty queue ends the command. -/
def drainStep (s : State) : Except Fault State :=
  (popByte s).map (fun r =>
    match r with
    | (some b, s') => feedByte b (s'.withBusy true)
    | (none, s') => endUpdate s')

/-- `TOP_UPDATE` (43_top_level.md R200). The command is its drain steps: the step that issues it is the first of them
(log entry 9); the step after it that takes C's turn is the next. -/
def execTopUpdate (s : State) : Result := command .topUpdate drainStep s

/-- `TOP_RX_ERROR` (43_top_level.md R205). -/
def execTopRxError (s : State) : Result :=
  command .topRxError
    (fun s => .ok (respond respNone
      (if s.cfg.errResetsTracker then (s.withD (decoderReset s.d)).withT (trackerReset s.cfg)
       else s.withD (decoderReset s.d)))) s

/-- `TOP_GET_GATE` (43_top_level.md R206). -/
def execTopGetGate (s : State) : Result :=
  command .topGetGate (fun s => .ok (respond (respBool (gate s)) s)) s

end Sys2Proof.Machine
end

