-- ==== Sys2Proof/Machine/Dispatch.lean ====
section
/-! DEFINITION. One arm per instruction. -/

namespace Sys2Proof.Machine

def exec (i : Instr) (s : State) : Host.Outcome State Fault Refusal :=
  match i with
  | .midiRealtime r => Sys2Proof.Machine.execMidiRealtime r s
  | .midiSysCommon k => Sys2Proof.Machine.execMidiSysCommon k s
  | .midiNoteOff c => Sys2Proof.Machine.execMidiNoteOff c s
  | .midiNoteOn c => Sys2Proof.Machine.execMidiNoteOn c s
  | .midiStatusA c => Sys2Proof.Machine.execMidiStatusA c s
  | .midiControlChange c => Sys2Proof.Machine.execMidiControlChange c s
  | .midiStatusC c => Sys2Proof.Machine.execMidiStatusC c s
  | .midiStatusD c => Sys2Proof.Machine.execMidiStatusD c s
  | .midiPitchBend c => Sys2Proof.Machine.execMidiPitchBend c s
  | .midiData d => Sys2Proof.Machine.execMidiData d s
  | .qInit => Sys2Proof.Machine.execQInit s
  | .qPush a => Sys2Proof.Machine.execQPush a s
  | .qPop => Sys2Proof.Machine.execQPop s
  | .qPeek => Sys2Proof.Machine.execQPeek s
  | .qIsFull => Sys2Proof.Machine.execQIsFull s
  | .qIsEmpty => Sys2Proof.Machine.execQIsEmpty s
  | .decFeed a => Sys2Proof.Machine.execDecFeed a s
  | .decReset => Sys2Proof.Machine.execDecReset s
  | .decSetChannel a => Sys2Proof.Machine.execDecSetChannel a s
  | .decSetOmni a => Sys2Proof.Machine.execDecSetOmni a s
  | .decGetChannel => Sys2Proof.Machine.execDecGetChannel s
  | .decGetOmni => Sys2Proof.Machine.execDecGetOmni s
  | .decSetCallback a b => Sys2Proof.Machine.execDecSetCallback a b s
  | .trkNoteOn a b => Sys2Proof.Machine.execTrkNoteOn a b s
  | .trkNoteOff a => Sys2Proof.Machine.execTrkNoteOff a s
  | .trkHeldCount => Sys2Proof.Machine.execTrkHeldCount s
  | .trkSoundingNote => Sys2Proof.Machine.execTrkSoundingNote s
  | .trkReset => Sys2Proof.Machine.execTrkReset s
  | .topUpdate => Sys2Proof.Machine.execTopUpdate s
  | .topRxError => Sys2Proof.Machine.execTopRxError s
  | .topGetGate => Sys2Proof.Machine.execTopGetGate s

end Sys2Proof.Machine
end

