-- ==== Sys2Proof/Machine/Fetch.lean ====
section
/-! DEFINITION. What the next step runs: the next command of the agent whose turn it is, or C's next drain step
(10_state.md R50, 20_memory.md R66, R69, 43_top_level.md R201; log entries 1, 2, 9). -/

namespace Sys2Proof.Machine

/-- What the fetch found: an instruction to execute in the state the fetch leaves, or the step's whole outcome. -/
inductive Fetched where
  | run (i : Instr) (s : State)
  | answer (o : Result)

/-- The run has ended (70_reset_and_hazards.md R266): no command is presented, `U.busy` is clear and `F = NONE`. -/
def runEnded (s : State) : Bool :=
  s.portP.cmds.isEmpty && s.portC.cmds.isEmpty && !s.busy && s.fault.isNone

/-- The next command of an agent's port. An illegal word makes the fault entry (30_encoding.md R89); an agent with no
command presented lets its turn pass (log entry 1). -/
def fetchCommand (s : State) : Fetched :=
  match (s.port s.issuer).cmds with
  | [] => .answer (.next s)
  | w :: ws =>
    let s' := s.withPort s.issuer { s.port s.issuer with cmds := ws }
    match decodeCmd w with
    | .ok i => .run i s'
    | .error _ => .answer (.next (raiseFault .illegal w s'))

/-- The next drain step of `TOP_UPDATE` (43_top_level.md R201): the popped byte is the next instruction; an empty queue
ends the command. -/
def fetchDrain (s : State) : Fetched :=
  match popByte s with
  | .ok (some b, s') => .run (decodeByte b) s'
  | .ok (none, s') => .answer (.next (endUpdate s'))
  | .error f => .answer (.fault f)

/-- A turn of an agent: C drains while `U.busy` is set (10_state.md R45), else its port's next command. -/
def fetchTurn (s : State) : Fetched :=
  if s.busy && s.issuer == .C then fetchDrain s else fetchCommand s

/-- The fetch of the next step: no step of an illegal configuration (00_scope.md R7), none after a fault
(60_exceptions.md R223), none at the end of the run (70_reset_and_hazards.md R266). -/
def fetch (s : State) : Fetched :=
  if s.cfg.legal then
    match s.fault with
    | some r => .answer (.fault (.stopped r))
    | none =>
      if runEnded s then .answer (.refused .runEnded)
      else match s.turns with
        | [] => .answer (.refused .noTurnChosen)
        | a :: rest => fetchTurn ((s.withTurns rest).withIssuer a)
  else .answer (.refused .illegalConfiguration)

/-- The agent at whose port `presentCommand` places a command: the one admitted (60_exceptions.md R226). DESIGN CHOICE
(log entry 2), the spec leaving it to the host: C where both are admitted, P where neither is (`TOP_UPDATE` with
`P_FEED_PATH = DIRECT`), so that its `F_CONTEXT` records P. -/
def issuerFor (p : Params) (i : Instr) : Agent := if admits p .C i then .C else .P

/-- Present a command word at the front of its agent's port, with the next turn that agent's. DESIGN CHOICE (log
entry 2): an illegal word, which has no admitted agent, is placed at C's port, so that its `F_ILLEGAL` records C. -/
def presentCommand (w : CmdWord) (s : State) : State :=
  let a := match decodeCmd w with
    | .ok i => issuerFor s.cfg i
    | .error _ => .C
  let s := (s.withFault none).withTurns (a :: s.turns)
  let s := s.withPort a { s.port a with cmds := w :: (s.port a).cmds }
  match a with
  | .C => s.withBusy false
  | .P => s

/-- Place an input byte as the oldest queued byte, with `TOP_UPDATE` in progress and the next turn C's. -/
def presentByte (b : Byte) (s : State) : State :=
  let q := { s.q with
    mem := memSet s.q.mem s.q.ri b
    wi := if qEmpty s then advance s.cfg.qcap s.q.ri else s.q.wi }
  (((s.withFault none).withTurns (.C :: s.turns)).withBusy true).withQ q

end Sys2Proof.Machine
end

