-- ==== Sys2Proof/Machine/Step.lean ====
section
/-! DEFINITION. One atomic step (20_memory.md R66), and the host's placing of one instruction. -/

namespace Sys2Proof.Machine

/-- One atomic step: the fetched instruction is executed; what is no instruction is answered by the fetch. -/
def step (s : State) : Host.Outcome State Fault Refusal :=
  match fetch s with
  | .run i s' => exec i s'
  | .answer o => o

/-- `s` with the given instruction placed where the next step takes it (log entry 2): an input byte as the oldest
queued byte of a `TOP_UPDATE` in progress, a command word at the port of its admitted agent. -/
def State.withFetchWord (s : State) (nbits w : Nat) : State :=
  if nbits ≤ 8 then presentByte (BitVec.ofNat 8 w) s else presentCommand (BitVec.ofNat 24 w) s

end Sys2Proof.Machine
end

