-- ==== Sys2Proof/Machine/Launch.lean ====
section
/-! DEFINITION. The start of a launch: the check of its parameters and block reset (00_scope.md R6, R7,
70_reset_and_hazards.md R250, R253). -/

namespace Sys2Proof.Machine

/-- The configuration check of 00_scope.md R7; DEDUCED (log entry 8): the held count and the initial channel fit
their registers (10_state.md R33, R41). -/
def launchLegal (p : LaunchParams) : Bool :=
  2 ≤ p.qcap && p.qcap ≤ 65536 && p.defaultNote ≤ 127 && p.zeroRefNote ≤ 127
    && p.trkCap ≤ 31 && 1 ≤ p.initChannel && p.initChannel ≤ 16

/-- The parameters in the widths their registers have (00_scope.md R8). -/
def paramsOf (p : LaunchParams) : Params where
  qcap := p.qcap
  trkCap := p.trkCap
  defaultNote := BitVec.ofNat 7 p.defaultNote
  zeroRefNote := BitVec.ofNat 7 p.zeroRefNote
  initChannel := BitVec.ofNat 5 p.initChannel
  initOmni := p.initOmni
  scClearsRs := p.scClearsRs
  errResetsTracker := p.errResetsTracker
  feedPath := p.feedPath

/-- A launch: block reset with the chosen parameters, or "refused at configuration: it has no reset state and no step"
(00_scope.md R7). -/
def launch (p : LaunchParams) : Result :=
  if launchLegal p then .next (State.resetWith (paramsOf p)) else .refused .illegalConfiguration

end Sys2Proof.Machine
end

