-- ==== Sys2Proof/Machine/Outputs.lean ====
section
/-! DEFINITION. What the host sees beside the responses: the event word (30_encoding.md R94) and the reference voltage
(43_top_level.md R208). The outputs `gate` and `pitch` stand in Flags.lean. -/

namespace Sys2Proof.Machine

/-- The channel field `e[23:20]` of an event word: channel - 1, 0 for RealTime (30_encoding.md R94). -/
def eventChannelField : Event → BitVec 4
  | .noteOn _ _ ch => (ch - 1#5).setWidth 4
  | .noteOff _ _ ch => (ch - 1#5).setWidth 4
  | .controlChange _ _ ch => (ch - 1#5).setWidth 4
  | .pitchBend _ ch => (ch - 1#5).setWidth 4
  | .realTime _ => 0#4

/-- The pair `{a[6:0], b[6:0]}` of an event word's payload (30_encoding.md R94). -/
def dataPair (a b : Data7) : BitVec 14 := BitVec.ofNat 14 (a.toNat * 128 + b.toNat)

/-- The payload `e[13:0]` of an event word (30_encoding.md R94). -/
def eventPayload : Event → BitVec 14
  | .noteOn a b _ => dataPair a b
  | .noteOff a b _ => dataPair a b
  | .controlChange a b _ => dataPair a b
  | .pitchBend v _ => BitVec.ofInt 14 v
  | .realTime st => st.setWidth 14

/-- The event word (30_encoding.md R94): kind in `e[26:24]`, channel field in `e[23:20]`, `e[19:14] = 0`, payload in
`e[13:0]`. -/
def eventWord (ev : Event) : EventWord :=
  BitVec.ofNat 27 ((kindCode (eventKind ev)).toNat * 2 ^ 24 + (eventChannelField ev).toNat * 2 ^ 20
    + (eventPayload ev).toNat)

/-- The event an event word stands for (30_encoding.md R94); none for a kind that names nothing (10_state.md R37) or a
field that is not as the rule lays it out. -/
def eventOfWord (e : EventWord) : Option Event :=
  let kind := e.extractLsb' 24 3
  let ch : Channel := (e.extractLsb' 20 4).setWidth 5 + 1#5
  let a := e.extractLsb' 7 7
  let b := e.extractLsb' 0 7
  if e.extractLsb' 14 6 = 0#6 then
    if kind = 0#3 then some (.noteOn a b ch)
    else if kind = 1#3 then some (.noteOff a b ch)
    else if kind = 2#3 then some (.controlChange a b ch)
    else if kind = 3#3 then some (.pitchBend (e.extractLsb' 0 14).toInt ch)
    else if kind = 4#3 then
      if e.extractLsb' 20 4 = 0#4 ∧ e.extractLsb' 8 6 = 0#6 ∧ e.extractLsb' 3 5 = 0b11111#5 then
        some (.realTime (e.extractLsb' 0 8))
      else none
    else none
  else none

/-- The reference voltage `(pitch - P_ZERO_REF_NOTE) / 12`, the exact rational, outside the block: no rule reads it
(43_top_level.md R208). -/
def voltage (s : State) : Rat :=
  (((pitch s).toNat : Int) - (s.cfg.zeroRefNote.toNat : Int) : Int) / 12

end Sys2Proof.Machine
end

