-- ==== Sys2Proof/Safety.lean ====
section
/-! DEFINITION. The invariants of the spec (10_state.md R21 to R43) and what counts as a safe run (60_exceptions.md
R223, 70_reset_and_hazards.md R266). -/

namespace Sys2Proof.Machine

/-- A channel status byte, 0x80 to 0xEF (10_state.md R29). -/
def isChannelStatus (b : Byte) : Bool := 0x80#8 ≤ b && b ≤ 0xEF#8

/-- The queue's invariant: the indices in `[0, P_QCAP)` (10_state.md R21, R22), the storage in canonical form inside
`[0, P_QCAP)` (20_memory.md R60), and every queued slot written by a push (10_state.md R26). -/
structure QueueInv (s : State) : Prop where
  wi_lt   : s.q.wi < s.cfg.qcap
  ri_lt   : s.q.ri < s.cfg.qcap
  wf      : memWf s.q.mem
  inRange : ∀ c ∈ s.q.mem, c.1 < s.cfg.qcap
  written : ∀ i ∈ queuedSlots s, (memGet s.q.mem i).isSome

/-- The decoder's invariant (10_state.md R29, R30, R32, R33, R36, R38). -/
structure DecoderInv (d : Decoder) : Prop where
  rs_ok    : d.rs = 0#8 ∨ isChannelStatus d.rs
  cs_ok    : d.cs = 0#8 ∨ isChannelStatus d.cs
  exp_ok   : d.exp = 0#2 ∨ d.exp = 2#2
  awaiting : d.state ≠ .idle → d.exp = 2#2 ∧ isChannelStatus d.cs ∧ expectedCount d.cs = 2#2
  chan_ok  : 1 ≤ d.chan.toNat ∧ d.chan.toNat ≤ 16
  cb_ok    : d.cb.cc ≠ .tracker ∧ d.cb.pb ≠ .tracker ∧ d.cb.rt ≠ .tracker

/-- The tracker's invariant (10_state.md R43). -/
structure TrackerInv (cap : Nat) (t : Tracker) : Prop where
  count_le   : heldCount t ≤ cap
  distinct   : (t.held.map Held.note).Nodup
  latched_eq : t.held ≠ [] → t.latched = soundingNote t

/-- The ranges of an event's arguments (10_state.md R47). -/
def eventOk : Event → Bool
  | .noteOn _ _ ch => decide (1 ≤ ch.toNat ∧ ch.toNat ≤ 16)
  | .noteOff _ _ ch => decide (1 ≤ ch.toNat ∧ ch.toNat ≤ 16)
  | .controlChange _ _ ch => decide (1 ≤ ch.toNat ∧ ch.toNat ≤ 16)
  | .pitchBend v ch => decide (-8192 ≤ v ∧ v ≤ 8191 ∧ 1 ≤ ch.toNat ∧ ch.toNat ≤ 16)
  | .realTime st => decide (0xF8 ≤ st.toNat)

/-- The machine's invariant: legal parameters (00_scope.md R7), the three above, the events' ranges, and an update in
progress only where `TOP_UPDATE` is admitted (60_exceptions.md R226). -/
structure Inv (s : State) : Prop where
  legal   : s.cfg.legal = true
  queue   : QueueInv s
  decoder : DecoderInv s.d
  tracker : TrackerInv s.cfg.trkCap s.t
  events  : ∀ ev ∈ s.events, eventOk ev = true
  busy    : s.busy = true → s.cfg.feedPath = .queued

/-- A run is safe so far when it has broken no contract: `F = NONE` (60_exceptions.md R221). -/
def Safe (s : State) : Prop := s.fault = none

/-- The common checks of a command before its operands: no fault, and the issuing agent admitted (60_exceptions.md R223,
R226). -/
def Admitted (i : Instr) (s : State) : Prop := s.fault = none ∧ admits s.cfg s.issuer i = true

/-- The parse registers, written only by feeding and by resets (10_state.md R35). -/
def parseRegs (d : Decoder) : ParseState × Byte × Byte × Data7 × Data7 × BitVec 2 :=
  (d.state, d.rs, d.cs, d.d1, d.d2, d.exp)

/-- What a completed message with status `st` and data `d1`, `d2` means, read from 41_message_decoder.md R145 to R149 on
numbers: the status is `16 * nibble + channel - 1`. -/
def MessageMeans (st : Byte) (d1 d2 : Data7) : Event → Prop
  | .noteOff n v ch => (st.toNat / 16 = 8 ∨ st.toNat / 16 = 9 ∧ d2 = 0#7) ∧ n = d1 ∧ v = d2 ∧ ch.toNat = st.toNat % 16 + 1
  | .noteOn n v ch => st.toNat / 16 = 9 ∧ d2 ≠ 0#7 ∧ n = d1 ∧ v = d2 ∧ ch.toNat = st.toNat % 16 + 1
  | .controlChange n v ch => st.toNat / 16 = 11 ∧ n = d1 ∧ v = d2 ∧ ch.toNat = st.toNat % 16 + 1
  | .pitchBend v ch => st.toNat / 16 = 14 ∧ v = (d2.toNat * 128 + d1.toNat : Nat) - 8192 ∧ ch.toNat = st.toNat % 16 + 1
  | .realTime _ => False

/-- The values of an event word's fields (30_encoding.md R94). -/
structure EventFields where
  kind    : Nat   -- e[26:24]
  channel : Nat   -- e[23:20]
  payload : Nat   -- e[13:0]
deriving DecidableEq, Repr

/-- What R94 puts in the fields, on numbers: the kind's code (10_state.md R37), channel - 1 or 0 for RealTime, and the
payload: seven bits each of note or controller and velocity or value, the pitch-bend value in 14-bit two's complement,
the status. -/
def eventFields : Event → EventFields
  | .noteOn a b ch => { kind := 0, channel := ch.toNat - 1, payload := a.toNat * 128 + b.toNat }
  | .noteOff a b ch => { kind := 1, channel := ch.toNat - 1, payload := a.toNat * 128 + b.toNat }
  | .controlChange a b ch => { kind := 2, channel := ch.toNat - 1, payload := a.toNat * 128 + b.toNat }
  | .pitchBend v ch => { kind := 3, channel := ch.toNat - 1, payload := (if v < 0 then v + 16384 else v).toNat }
  | .realTime st => { kind := 4, channel := 0, payload := st.toNat }

/-- Whether an event is a real-time event. -/
def isRealTime : Event → Bool
  | .realTime _ => true
  | .noteOn _ _ _ => false
  | .noteOff _ _ _ => false
  | .controlChange _ _ _ => false
  | .pitchBend _ _ => false

/-- Whether an instruction is an input byte (30_encoding.md R80), not a command. -/
def isInputByte (i : Instr) : Bool :=
  match encode i with
  | .byte _ => true
  | .cmd _ => false

/-- The commands that write nothing (20_memory.md R67). -/
def readOnlyCommands : List Instr :=
  [.qPeek, .qIsFull, .qIsEmpty, .decGetChannel, .decGetOmni, .trkHeldCount, .trkSoundingNote, .topGetGate]

/-- A list of bytes fed one after the other (41_message_decoder.md R120, R140). -/
def feedAll (bs : List Byte) (s : State) : State := bs.foldl (fun s b => feedByte b s) s

end Sys2Proof.Machine
end

