-- ==== Sys2Proof/Certificates/Slice0/Obligations.lean ====
section
/-! DEFINITION. The statements. Each cites the rule of the spec it comes from in OBLIGATIONS.json. -/

open Sys2Proof Sys2Proof.Machine

/-! Reset and configuration -/

/-- 10_state.md R55, 70_reset_and_hazards.md R250: every register after block reset, for every launch. The ports and the
turns, which are the host's, are the model's choice (log entries 1 to 4) and are not stated here; the ranges of
`P_TRK_CAP` and `P_INIT_CHANNEL` in `launchLegal` are DEDUCED (log entry 8). -/
def Obligations.LaunchPutsResetValues : Prop :=
  ∀ p : LaunchParams, launchLegal p = true →
    ∃ t, launch p = .next t ∧
      t.q.wi = 0 ∧ t.q.ri = 0 ∧ (∀ i, memGet t.q.mem i = none) ∧
      t.d.state = .idle ∧ t.d.rs = 0#8 ∧ t.d.cs = 0#8 ∧ t.d.d1 = 0#7 ∧ t.d.d2 = 0#7 ∧ t.d.exp = 0#2 ∧
      t.d.chan.toNat = p.initChannel ∧ t.d.omni = p.initOmni ∧
      t.d.cb.noteOn = .tracker ∧ t.d.cb.noteOff = .tracker ∧
      t.d.cb.cc = .none ∧ t.d.cb.pb = .none ∧ t.d.cb.rt = .none ∧
      heldCount t.t = 0 ∧ t.t.latched.toNat = p.defaultNote ∧
      t.busy = false ∧ t.fault = none ∧ t.events = [] ∧
      gate t = false ∧ (pitch t).toNat = p.defaultNote

/-- 00_scope.md R6: the default parameters, and block reset with them. -/
def Obligations.ResetTakesDefaultParameters : Prop :=
  State.reset.cfg.qcap = 120 ∧ State.reset.cfg.trkCap = 25 ∧ State.reset.cfg.initChannel = 1#5 ∧
    State.reset.cfg.initOmni = false ∧ State.reset.cfg.scClearsRs = true ∧
    State.reset.cfg.errResetsTracker = false ∧ State.reset.cfg.feedPath = .queued ∧
    State.reset.d.chan = 1#5 ∧ State.reset.d.omni = false ∧
    State.reset.t.latched = State.reset.cfg.defaultNote ∧ State.reset = State.resetWith State.reset.cfg

/-- 00_scope.md R7: illegal parameters have no reset state and no step. (A note beyond 127 cannot stand in a state, whose
notes are 7 bits; it is refused at the launch.) -/
def Obligations.IllegalConfigurationRefused : Prop :=
  (∀ p : LaunchParams, (p.qcap < 2 ∨ 65536 < p.qcap ∨ 127 < p.defaultNote ∨ 127 < p.zeroRefNote) →
    launch p = .refused .illegalConfiguration) ∧
  (∀ s : State, (s.cfg.qcap < 2 ∨ 65536 < s.cfg.qcap) → step s = .refused .illegalConfiguration)

/-- The invariant of Safety.lean (10_state.md R21, R22, R26, R29 to R38, R43, R47) at the start of every launch. -/
def Obligations.LaunchHasInvariant : Prop :=
  Inv State.reset ∧ ∀ (p : LaunchParams) (t : State), launch p = .next t → Inv t

/-- The invariant of Safety.lean (10_state.md R21, R22, R26, R29 to R38, R43, R47) is kept by every step from every
state. -/
def Obligations.StepKeepsInvariant : Prop :=
  ∀ s t : State, Inv s → step s = .next t → Inv t

/-- 10_state.md R26, 30_encoding.md R86: from a state that meets the invariant and has no recorded fault, no step reads a
slot no push has written and none stops in a fault. -/
def Obligations.InvariantExcludesModelFaults : Prop :=
  ∀ s : State, Inv s → s.fault = none → ∀ f : Fault, step s ≠ .fault f

/-! Encoding -/

/-- Decoding the code of any instruction gives it back (30_encoding.md R81, R87 to R89). -/
def Obligations.DecodeOfEncode : Prop :=
  ∀ i : Instr, decode (encode i) = .ok i

/-- No two codes stand for one instruction: what decodes is the code of what it decodes to (30_encoding.md R81, R89). -/
def Obligations.EncodeOfDecode : Prop :=
  ∀ (c : Code) (i : Instr), decode c = .ok i → encode i = c

/-- 30_encoding.md R89, R91: a command word is legal exactly when its opcode is in the table and its reserved fields are
zero. -/
def Obligations.LegalCommandWords : Prop :=
  ∀ w : CmdWord,
    (∃ i, decodeCmd w = .ok i) ↔
      (w.toNat / 65536 ∈ [0x26, 0x30]) ∨
      (w.toNat / 65536 ∈ [0x11, 0x20, 0x22, 0x23, 0x31] ∧ w.toNat % 256 = 0) ∨
      (w.toNat / 65536 ∈ [0x10, 0x12, 0x13, 0x14, 0x15, 0x21, 0x24, 0x25, 0x32, 0x33, 0x34, 0x40, 0x41, 0x42] ∧
        w.toNat % 65536 = 0)

/-- Words written out in the spec: six command words (30_encoding.md R95, 41_message_decoder.md R155, R156, R160,
43_top_level.md R200, the examples), two illegal words (95_test_vectors.md QF5, QF7), and three input bytes of the vectors
(95_test_vectors.md L1.4, L1.5) with the class of 30_encoding.md R81. -/
def Obligations.SpecExampleWordsDecode : Prop :=
  decodeCmd 0x119000#24 = .ok (.qPush 0x90#8) ∧ decodeCmd 0x303C64#24 = .ok (.trkNoteOn 60#8 100#8) ∧
    decodeCmd 0x260301#24 = .ok (.decSetCallback 3#8 1#8) ∧ decodeCmd 0x220500#24 = .ok (.decSetChannel 5#8) ∧
    decodeCmd 0x210000#24 = .ok .decReset ∧ decodeCmd 0x400000#24 = .ok .topUpdate ∧
    decodeCmd 0x160000#24 = .error .badOpcode ∧
    decodeCmd 0x119001#24 = .error .reservedField ∧ decodeByte 0x92#8 = .midiNoteOn 2#4 ∧
    decodeByte 0xE0#8 = .midiPitchBend 0#4 ∧ decodeByte 0x3C#8 = .midiData 60#7

/-- 30_encoding.md R81: the class and the free bits of each of the 256 bytes, by the table's ranges. -/
def Obligations.InputByteClasses : Prop :=
  ∀ b : Byte,
    (0xF8 ≤ b.toNat → decodeByte b = .midiRealtime (BitVec.ofNat 3 (b.toNat - 0xF8))) ∧
    (0xF0 ≤ b.toNat ∧ b.toNat ≤ 0xF7 → decodeByte b = .midiSysCommon (BitVec.ofNat 3 (b.toNat - 0xF0))) ∧
    (0x80 ≤ b.toNat ∧ b.toNat ≤ 0x8F → decodeByte b = .midiNoteOff (BitVec.ofNat 4 (b.toNat - 0x80))) ∧
    (0x90 ≤ b.toNat ∧ b.toNat ≤ 0x9F → decodeByte b = .midiNoteOn (BitVec.ofNat 4 (b.toNat - 0x90))) ∧
    (0xA0 ≤ b.toNat ∧ b.toNat ≤ 0xAF → decodeByte b = .midiStatusA (BitVec.ofNat 4 (b.toNat - 0xA0))) ∧
    (0xB0 ≤ b.toNat ∧ b.toNat ≤ 0xBF → decodeByte b = .midiControlChange (BitVec.ofNat 4 (b.toNat - 0xB0))) ∧
    (0xC0 ≤ b.toNat ∧ b.toNat ≤ 0xCF → decodeByte b = .midiStatusC (BitVec.ofNat 4 (b.toNat - 0xC0))) ∧
    (0xD0 ≤ b.toNat ∧ b.toNat ≤ 0xDF → decodeByte b = .midiStatusD (BitVec.ofNat 4 (b.toNat - 0xD0))) ∧
    (0xE0 ≤ b.toNat ∧ b.toNat ≤ 0xEF → decodeByte b = .midiPitchBend (BitVec.ofNat 4 (b.toNat - 0xE0))) ∧
    (b.toNat ≤ 0x7F → decodeByte b = .midiData (BitVec.ofNat 7 b.toNat))

/-- 30_encoding.md R86, 41_message_decoder.md R120: every one of the 256 bytes is handled by its class, and none faults:
feeding a byte is executing the instruction it decodes to. -/
def Obligations.FeedExecutesDecodedByte : Prop :=
  ∀ (b : Byte) (s : State), s.fault = none → exec (decodeByte b) s = .next (feedByte b s)

/-- 30_encoding.md R94: an event and its word carry the same information, and the word's four fields are as the rule lays
them out: the kind in `e[26:24]`, the channel field in `e[23:20]`, 0 in `e[19:14]`, the payload in `e[13:0]`. -/
def Obligations.EventWordLossless : Prop :=
  ∀ ev : Event, eventOk ev = true →
    eventOfWord (eventWord ev) = some ev ∧
    (eventWord ev).toNat / 2 ^ 24 = (eventFields ev).kind ∧
    (eventWord ev).toNat / 2 ^ 20 % 2 ^ 4 = (eventFields ev).channel ∧
    (eventWord ev).toNat / 2 ^ 14 % 2 ^ 6 = 0 ∧
    (eventWord ev).toNat % 2 ^ 14 = (eventFields ev).payload

/-! The step -/

/-- The step runs the command presented at the port whose turn it is (10_state.md R50, 20_memory.md R66, R69). -/
def Obligations.StepRunsPresentedCommand : Prop :=
  ∀ (s : State) (a : Agent) (rest : List Agent) (w : CmdWord) (ws : List CmdWord) (i : Instr),
    s.cfg.legal = true → s.fault = none → s.turns = a :: rest → (s.port a).cmds = w :: ws →
    ¬ (a = .C ∧ s.busy = true) → decodeCmd w = .ok i →
    step s = exec i (((s.withTurns rest).withIssuer a).withPort a { s.port a with cmds := ws })

/-- While an update is in progress, C's step pops the oldest byte and runs the instruction it decodes to
(43_top_level.md R201); on an empty queue it ends the update (R200). -/
def Obligations.StepRunsDrainedByte : Prop :=
  ∀ (s : State) (rest : List Agent), s.cfg.legal = true → s.fault = none → s.busy = true → s.turns = .C :: rest →
    (∀ b, s.q.wi ≠ s.q.ri → s.q.ri < s.cfg.qcap → memGet s.q.mem s.q.ri = some b →
      step s = exec (decodeByte b)
        (((s.withTurns rest).withIssuer .C).withQ { s.q with ri := (s.q.ri + 1) % s.cfg.qcap })) ∧
    (s.q.wi = s.q.ri →
      step s = .next ((((s.withTurns rest).withIssuer .C).withBusy false).withPort .C
        { s.portC with resp := s.portC.resp ++ [0#16] }))

/-- 30_encoding.md R89, 60_exceptions.md R222: an illegal word presented at a port records `F_ILLEGAL`, the word and the
agent, and has no other effect on the block; the word is no longer presented and the turn has passed. -/
def Obligations.IllegalWordRecordsFault : Prop :=
  ∀ (s : State) (a : Agent) (rest : List Agent) (w : CmdWord) (ws : List CmdWord) (e : DecodeError),
    s.cfg.legal = true → s.fault = none → s.turns = a :: rest → (s.port a).cmds = w :: ws →
    ¬ (a = .C ∧ s.busy = true) → decodeCmd w = .error e →
    step s = .next ((((s.withTurns rest).withIssuer a).withPort a { s.port a with cmds := ws }).withFault
      (some { reason := .illegal, word := w, agent := a }))

/-- 60_exceptions.md R223: while the fault register is not NONE neither agent has a step, and no instruction
executes. -/
def Obligations.NoStepAfterFault : Prop :=
  ∀ (s : State) (r : FaultRecord), s.fault = some r →
    (∀ i : Instr, exec i s = .fault (.stopped r)) ∧ (s.cfg.legal = true → step s = .fault (.stopped r))

/-- 70_reset_and_hazards.md R266: with no command presented, no update in progress and no fault, the run has ended. The
refusals' names and the passing of a turn to an agent with nothing presented are the model's choice (log entry 1). -/
def Obligations.RunEndHasNoStep : Prop :=
  ∀ s : State, s.cfg.legal = true → s.fault = none →
    (s.portP.cmds = [] → s.portC.cmds = [] → s.busy = false → step s = .refused .runEnded) ∧
    ((s.portP.cmds ≠ [] ∨ s.portC.cmds ≠ [] ∨ s.busy = true) → s.turns = [] → step s = .refused .noTurnChosen) ∧
    (∀ a rest, (s.portP.cmds ≠ [] ∨ s.portC.cmds ≠ [] ∨ s.busy = true) → s.turns = a :: rest →
      (s.port a).cmds = [] → ¬ (a = .C ∧ s.busy = true) → step s = .next ((s.withTurns rest).withIssuer a))

/-! Faults -/

/-- 60_exceptions.md R226, R222, R224: a command from an agent that may not issue it records `F_CONTEXT`, its word and
the agent, and writes nothing else; this check comes before the operands' (R224), so no operand is assumed in range. -/
def Obligations.UnadmittedCommandRecordsContext : Prop :=
  ∀ (i : Instr) (s : State), s.fault = none → isInputByte i = false →
    (((∃ a, i = .qPush a) ∧ s.issuer = .C) ∨
     ((∃ a, i = .decFeed a) ∧
       ((s.cfg.feedPath = .queued ∧ s.issuer = .P) ∨ (s.cfg.feedPath = .direct ∧ s.issuer = .C))) ∨
     (i = .topUpdate ∧ (s.issuer = .P ∨ s.cfg.feedPath = .direct)) ∨
     ((∀ a, i ≠ .qPush a) ∧ (∀ a, i ≠ .decFeed a) ∧ i ≠ .topUpdate ∧ i ≠ .qIsFull ∧ i ≠ .qIsEmpty ∧
       s.issuer = .P)) →
    exec i s = .next (s.withFault (some { reason := .context, word := commandWord i, agent := s.issuer }))

/-- 30_encoding.md R90, 60_exceptions.md R222: an operand outside its range records `F_OPERAND`, the word and the agent,
and writes nothing else. -/
def Obligations.OutOfRangeOperandRecordsFault : Prop :=
  ∀ (a b : Byte) (s : State), s.fault = none → s.issuer = .C →
    ((a.toNat < 1 ∨ 16 < a.toNat) → exec (.decSetChannel a) s =
      .next (s.withFault (some { reason := .operand, word := cmdOf 0x22#8 a 0#8, agent := .C }))) ∧
    (1 < a.toNat → exec (.decSetOmni a) s =
      .next (s.withFault (some { reason := .operand, word := cmdOf 0x23#8 a 0#8, agent := .C }))) ∧
    ((4 < a.toNat ∨ 2 < b.toNat ∨ (b.toNat = 2 ∧ a.toNat ≠ 0 ∧ a.toNat ≠ 1)) → exec (.decSetCallback a b) s =
      .next (s.withFault (some { reason := .operand, word := cmdOf 0x26#8 a b, agent := .C }))) ∧
    ((127 < a.toNat ∨ 127 < b.toNat) → exec (.trkNoteOn a b) s =
      .next (s.withFault (some { reason := .operand, word := cmdOf 0x30#8 a b, agent := .C }))) ∧
    (127 < a.toNat → exec (.trkNoteOff a) s =
      .next (s.withFault (some { reason := .operand, word := cmdOf 0x31#8 a 0#8, agent := .C })))

/-- 60_exceptions.md R222: whatever instruction faults, the state is that before it but for the fault register, which
holds the command word and the issuing agent; no response is returned. -/
def Obligations.FaultedCommandWritesOnlyFault : Prop :=
  ∀ (i : Instr) (s t : State), exec i s = .next t → t.fault ≠ none →
    ∃ r : Reason, t = s.withFault (some { reason := r, word := commandWord i, agent := s.issuer })

/-- Every instruction completes without a fault from every state that meets the invariant, where its agent is admitted
(60_exceptions.md R226) and its operands are in the ranges of 30_encoding.md R90. -/
def Obligations.AdmittedInstructionCompletes : Prop :=
  ∀ (i : Instr) (s : State), Inv s → Admitted i s → i.wellFormed = true →
    ∃ t, exec i s = .next t ∧ t.fault = none

/-! ByteQueue -/

/-- 40_byte_queue.md R100. -/
def Obligations.QInitResult : Prop :=
  ∀ s : State, s.fault = none → s.issuer = .C →
    exec .qInit s = .next (respond 0#16 (s.withQ { mem := s.q.mem, wi := 0, ri := 0 }))

/-- 40_byte_queue.md R101: a full queue drops the byte; otherwise the slot at the write index is written, every other slot
reads as before, and the index advances. -/
def Obligations.QPushResult : Prop :=
  ∀ (a : Byte) (s : State), s.fault = none → s.issuer = .P →
    ((s.q.wi + 1) % s.cfg.qcap = s.q.ri → exec (.qPush a) s = .next (respond 0#16 s)) ∧
    ((s.q.wi + 1) % s.cfg.qcap ≠ s.q.ri → s.q.wi < s.cfg.qcap →
      ∃ m : Memory, exec (.qPush a) s =
          .next (respond 1#16 (s.withQ { mem := m, wi := (s.q.wi + 1) % s.cfg.qcap, ri := s.q.ri })) ∧
        memGet m s.q.wi = some a ∧ ∀ j, j ≠ s.q.wi → memGet m j = memGet s.q.mem j)

/-- 40_byte_queue.md R102. -/
def Obligations.QPopResult : Prop :=
  ∀ s : State, s.fault = none → s.issuer = .C →
    (s.q.wi = s.q.ri → exec .qPop s = .next (respond 0#16 s)) ∧
    (∀ b, s.q.wi ≠ s.q.ri → s.q.ri < s.cfg.qcap → memGet s.q.mem s.q.ri = some b →
      exec .qPop s = .next (respond (0x01#8 ++ b)
        (s.withQ { mem := s.q.mem, wi := s.q.wi, ri := (s.q.ri + 1) % s.cfg.qcap })))

/-- 40_byte_queue.md R103: the oldest byte is answered and nothing is written. -/
def Obligations.QPeekResult : Prop :=
  ∀ s : State, s.fault = none → s.issuer = .C →
    (s.q.wi = s.q.ri → exec .qPeek s = .next (respond 0#16 s)) ∧
    (∀ b, s.q.wi ≠ s.q.ri → s.q.ri < s.cfg.qcap → memGet s.q.mem s.q.ri = some b →
      exec .qPeek s = .next (respond (0x01#8 ++ b) s))

/-- 40_byte_queue.md R104, R105: from either agent. -/
def Obligations.QueueQueriesResult : Prop :=
  ∀ s : State, s.fault = none →
    ((s.q.wi + 1) % s.cfg.qcap = s.q.ri → exec .qIsFull s = .next (respond 1#16 s)) ∧
    ((s.q.wi + 1) % s.cfg.qcap ≠ s.q.ri → exec .qIsFull s = .next (respond 0#16 s)) ∧
    (s.q.wi = s.q.ri → exec .qIsEmpty s = .next (respond 1#16 s)) ∧
    (s.q.wi ≠ s.q.ri → exec .qIsEmpty s = .next (respond 0#16 s))

/-- 10_state.md R25: the occupancy, for indices in range. -/
def Obligations.OccupancyConditions : Prop :=
  ∀ s : State, 2 ≤ s.cfg.qcap → s.q.wi < s.cfg.qcap → s.q.ri < s.cfg.qcap →
    qCount s ≤ s.cfg.qcap - 1 ∧ (qEmpty s = true ↔ qCount s = 0) ∧ (qFull s = true ↔ qCount s = s.cfg.qcap - 1) ∧
    (s.q.ri + qCount s) % s.cfg.qcap = s.q.wi

/-- 20_memory.md R68, 40_byte_queue.md R107: the circular buffer is a first-in first-out list of at most `P_QCAP - 1`
bytes. A push appends its byte or, at `P_QCAP - 1` bytes, answers false and contributes none; a pop answers and removes
the oldest; `Q_INIT` discards all. -/
def Obligations.QueueIsFifo : Prop :=
  ∀ s : State, Inv s → s.fault = none →
    (queuedBytes s).length ≤ s.cfg.qcap - 1 ∧
    (∀ a, s.issuer = .P → ∃ t, exec (.qPush a) s = .next t ∧
      (((queuedBytes s).length < s.cfg.qcap - 1 ∧ queuedBytes t = queuedBytes s ++ [a] ∧
          t.portP.resp = s.portP.resp ++ [1#16]) ∨
       ((queuedBytes s).length = s.cfg.qcap - 1 ∧ queuedBytes t = queuedBytes s ∧
          t.portP.resp = s.portP.resp ++ [0#16]))) ∧
    (s.issuer = .C → ∃ t, exec .qPop s = .next t ∧
      ((queuedBytes s = [] ∧ queuedBytes t = [] ∧ t.portC.resp = s.portC.resp ++ [0#16]) ∨
       (∃ b rest, queuedBytes s = b :: rest ∧ queuedBytes t = rest ∧
          t.portC.resp = s.portC.resp ++ [0x01#8 ++ b]))) ∧
    (s.issuer = .C → ∃ t, exec .qInit s = .next t ∧ queuedBytes t = [])

/-- 20_memory.md R61: no instruction but `Q_PUSH` writes the storage, and `Q_PUSH` writes the slot at the write index
only: every other slot reads as before. -/
def Obligations.OnlyPushWritesStorage : Prop :=
  ∀ (i : Instr) (s t : State), exec i s = .next t →
    ((∀ a, i ≠ .qPush a) → ∀ j, memGet t.q.mem j = memGet s.q.mem j) ∧
    (∀ a, i = .qPush a → ∀ j, j ≠ s.q.wi → memGet t.q.mem j = memGet s.q.mem j)

/-! MessageDecoder: input bytes -/

/-- 41_message_decoder.md R130: a real-time byte goes to its target at once and disturbs no register of the decoder. -/
def Obligations.RealTimeByteResult : Prop :=
  ∀ (r : BitVec 3) (s : State), s.fault = none →
    (s.d.cb.rt = .none → exec (.midiRealtime r) s = .next s) ∧
    (s.d.cb.rt = .host →
      exec (.midiRealtime r) s = .next (s.withEvents (s.events ++ [.realTime (BitVec.ofNat 8 (0xF8 + r.toNat))])))

/-- 41_message_decoder.md R131: a system-common byte clears the message in progress and, where `P_SC_CLEARS_RS`, the running
status; no event. -/
def Obligations.SystemCommonByteResult : Prop :=
  ∀ (k : BitVec 3) (s : State), s.fault = none →
    exec (.midiSysCommon k) s = .next (s.withD { s.d with
      state := .idle, cs := 0#8, d1 := 0#7, d2 := 0#7, exp := 0#2,
      rs := if s.cfg.scClearsRs = true then 0#8 else s.d.rs })

/-- 41_message_decoder.md R132, R121: a status byte of a two-data-byte message, in any parse state, becomes the running and
the current status and abandons a message in progress; nothing is dispatched. -/
def Obligations.StatusByteStartsMessage : Prop :=
  ∀ (c : BitVec 4) (s : State), s.fault = none →
    exec (.midiNoteOff c) s = .next (s.withD { s.d with
      state := .await1, rs := 0x8#4 ++ c, cs := 0x8#4 ++ c, exp := 2#2, d1 := 0#7, d2 := 0#7 }) ∧
    exec (.midiNoteOn c) s = .next (s.withD { s.d with
      state := .await1, rs := 0x9#4 ++ c, cs := 0x9#4 ++ c, exp := 2#2, d1 := 0#7, d2 := 0#7 }) ∧
    exec (.midiControlChange c) s = .next (s.withD { s.d with
      state := .await1, rs := 0xB#4 ++ c, cs := 0xB#4 ++ c, exp := 2#2, d1 := 0#7, d2 := 0#7 }) ∧
    exec (.midiPitchBend c) s = .next (s.withD { s.d with
      state := .await1, rs := 0xE#4 ++ c, cs := 0xE#4 ++ c, exp := 2#2, d1 := 0#7, d2 := 0#7 })

/-- 41_message_decoder.md R132, R151: a zero-data status becomes the running and the current status and delivers no event,
whether or not its channel passes the filter. -/
def Obligations.ZeroDataStatusDeliversNothing : Prop :=
  ∀ (c : BitVec 4) (s : State), s.fault = none →
    exec (.midiStatusA c) s = .next (s.withD { s.d with
      state := .idle, rs := 0xA#4 ++ c, cs := 0xA#4 ++ c, exp := 0#2, d1 := 0#7, d2 := 0#7 }) ∧
    exec (.midiStatusC c) s = .next (s.withD { s.d with
      state := .idle, rs := 0xC#4 ++ c, cs := 0xC#4 ++ c, exp := 0#2, d1 := 0#7, d2 := 0#7 }) ∧
    exec (.midiStatusD c) s = .next (s.withD { s.d with
      state := .idle, rs := 0xD#4 ++ c, cs := 0xD#4 ++ c, exp := 0#2, d1 := 0#7, d2 := 0#7 })

/-- 41_message_decoder.md R133 to R136: a data byte that completes no message. The running status is read by its nibble. -/
def Obligations.DataByteBeforeCompletion : Prop :=
  ∀ (b : Data7) (s : State), s.fault = none →
    (s.d.state = .idle → s.d.rs = 0#8 →
      exec (.midiData b) s =
        .next (s.withD { s.d with state := .idle, cs := 0#8, d1 := 0#7, d2 := 0#7, exp := 0#2 })) ∧
    (s.d.state = .idle → s.d.rs.toNat / 16 ∈ [0x8, 0x9, 0xB, 0xE] →
      exec (.midiData b) s =
        .next (s.withD { s.d with state := .await2, cs := s.d.rs, exp := 2#2, d1 := b, d2 := 0#7 })) ∧
    (s.d.state = .idle → s.d.rs.toNat / 16 ∈ [0xA, 0xC, 0xD] →
      exec (.midiData b) s = .next (s.withD { s.d with state := .idle, cs := s.d.rs, exp := 0#2 })) ∧
    (s.d.state = .await1 → s.d.exp ≠ 1#2 →
      exec (.midiData b) s = .next (s.withD { s.d with state := .await2, d1 := b }))

/-- 41_message_decoder.md R137, R145 to R150: the second data byte completes the message. If its channel passes the filter,
its one event goes to its kind's target: nowhere, the event log, or the tracker; otherwise no event. -/
def Obligations.CompletedMessageDelivery : Prop :=
  ∀ (b : Data7) (s : State) (ev : Event), s.fault = none → s.d.state = .await2 →
    MessageMeans s.d.cs s.d.d1 b ev →
    (s.d.omni = false → s.d.cs.toNat % 16 + 1 ≠ s.d.chan.toNat →
      exec (.midiData b) s = .next (s.withD { s.d with state := .idle, d2 := b })) ∧
    ((s.d.omni = true ∨ s.d.cs.toNat % 16 + 1 = s.d.chan.toNat) →
      (targetFor s.d.cb (eventKind ev) = .none →
        exec (.midiData b) s = .next (s.withD { s.d with state := .idle, d2 := b })) ∧
      (targetFor s.d.cb (eventKind ev) = .host →
        exec (.midiData b) s =
          .next ((s.withD { s.d with state := .idle, d2 := b }).withEvents (s.events ++ [ev]))) ∧
      (targetFor s.d.cb (eventKind ev) = .tracker → ∀ n v ch,
        (ev = .noteOn n v ch → exec (.midiData b) s =
          .next ((s.withD { s.d with state := .idle, d2 := b }).withT (trackerNoteOn s.cfg.trkCap n v s.t))) ∧
        (ev = .noteOff n v ch → exec (.midiData b) s =
          .next ((s.withD { s.d with state := .idle, d2 := b }).withT (trackerNoteOff n s.t)))))

/-- 41_message_decoder.md R146: the pitch-bend value, its range, and the source's three examples. -/
def Obligations.PitchBendValue : Prop :=
  (∀ d1 d2 : Data7, bendValue d1 d2 = (d2.toNat * 128 + d1.toNat : Int) - 8192 ∧
    -8192 ≤ bendValue d1 d2 ∧ bendValue d1 d2 ≤ 8191) ∧
  bendValue 0x00#7 0x40#7 = 0 ∧ bendValue 0x7F#7 0x7F#7 = 8191 ∧ bendValue 0x00#7 0x00#7 = -8192

/-- 41_message_decoder.md R134: under running status a data byte has the effect of the repeated status byte followed by it,
whatever the filter and the targets. -/
def Obligations.RunningStatusRepeatsStatus : Prop :=
  ∀ (b : Data7) (s : State), s.d.state = .idle → isChannelStatus s.d.rs = true → expectedCount s.d.rs = 2#2 →
    feedByte (0#1 ++ b) s = feedByte (0#1 ++ b) (feedByte s.d.rs s)

/-- 41_message_decoder.md R130: "these may be interleaved anywhere in the stream". Taking every real-time byte out of a stream
changes neither the decoder nor the tracker after it, nor the other events delivered. -/
def Obligations.RealTimeBytesInterleaveAnywhere : Prop :=
  ∀ (bs : List Byte) (s : State),
    (feedAll bs s).d = (feedAll (bs.filter (fun b => decide (b.toNat < 0xF8))) s).d ∧
    (feedAll bs s).t = (feedAll (bs.filter (fun b => decide (b.toNat < 0xF8))) s).t ∧
    (feedAll bs s).events.filter (fun e => !isRealTime e) =
      (feedAll (bs.filter (fun b => decide (b.toNat < 0xF8))) s).events.filter (fun e => !isRealTime e)

/-- 41_message_decoder.md R152: whether messages pass the filter, and what the targets, the tracker and the log are, has no effect
on the parse registers: two decoders that differ only in those parse every stream alike. -/
def Obligations.FilteringDoesNotChangeParsing : Prop :=
  ∀ (bs : List Byte) (s u : State), parseRegs s.d = parseRegs u.d → s.cfg.scClearsRs = u.cfg.scClearsRs →
    parseRegs (feedAll bs s).d = parseRegs (feedAll bs u).d

/-- 10_state.md R35: the parse registers are written only by feeding, by `DEC_RESET` and by the top-level commands that do
either; the channel filter, the omni flag and the targets only by their setters. -/
def Obligations.DecoderWriteDiscipline : Prop :=
  ∀ (i : Instr) (s t : State), exec i s = .next t →
    (parseRegs t.d ≠ parseRegs s.d →
      isInputByte i = true ∨ (∃ a, i = .decFeed a) ∨ i = .decReset ∨ i = .topUpdate ∨ i = .topRxError) ∧
    (t.d.chan ≠ s.d.chan → ∃ a, i = .decSetChannel a) ∧
    (t.d.omni ≠ s.d.omni → ∃ a, i = .decSetOmni a) ∧
    (t.d.cb ≠ s.d.cb → ∃ a b, i = .decSetCallback a b)

/-- What an input byte leaves unchanged: everything but the decoder, the tracker and the event log; and of the decoder the
channel filter, the omni flag and the targets (10_state.md R35, 41_message_decoder.md R150). -/
def Obligations.InputByteFrame : Prop :=
  ∀ (i : Instr) (s t : State), isInputByte i = true → exec i s = .next t →
    t = ((s.withD t.d).withT t.t).withEvents t.events ∧
    t.d.chan = s.d.chan ∧ t.d.omni = s.d.omni ∧ t.d.cb = s.d.cb

/-! MessageDecoder: commands -/

/-- 41_message_decoder.md R120, R155: a fed byte has its class's effect and no response value; `DEC_RESET` clears the parse state
and the running status and nothing else. -/
def Obligations.DecFeedAndResetResult : Prop :=
  (∀ (a : Byte) (s : State), s.fault = none →
    ((s.cfg.feedPath = .queued ∧ s.issuer = .C) ∨ (s.cfg.feedPath = .direct ∧ s.issuer = .P)) →
    ∃ u, exec (decodeByte a) s = .next u ∧ exec (.decFeed a) s = .next (respond 0#16 u)) ∧
  (∀ s : State, s.fault = none → s.issuer = .C →
    exec .decReset s = .next (respond 0#16 (s.withD { s.d with
      state := .idle, rs := 0#8, cs := 0#8, d1 := 0#7, d2 := 0#7, exp := 0#2 })))

/-- 41_message_decoder.md R156, R157, R160: each setter writes its register and nothing else. -/
def Obligations.DecoderSettersResult : Prop :=
  ∀ s : State, s.fault = none → s.issuer = .C →
    (∀ a : Byte, 1 ≤ a.toNat → a.toNat ≤ 16 → ∃ ch : Channel, ch.toNat = a.toNat ∧
      exec (.decSetChannel a) s = .next (respond 0#16 (s.withD { s.d with chan := ch }))) ∧
    exec (.decSetOmni 0#8) s = .next (respond 0#16 (s.withD { s.d with omni := false })) ∧
    exec (.decSetOmni 1#8) s = .next (respond 0#16 (s.withD { s.d with omni := true })) ∧
    (∀ b t, (b, t) ∈ [(0#8, Target.none), (1#8, Target.host), (2#8, Target.tracker)] →
      exec (.decSetCallback 0#8 b) s =
        .next (respond 0#16 (s.withD { s.d with cb := { s.d.cb with noteOn := t } })) ∧
      exec (.decSetCallback 1#8 b) s =
        .next (respond 0#16 (s.withD { s.d with cb := { s.d.cb with noteOff := t } }))) ∧
    (∀ b t, (b, t) ∈ [(0#8, Target.none), (1#8, Target.host)] →
      exec (.decSetCallback 2#8 b) s =
        .next (respond 0#16 (s.withD { s.d with cb := { s.d.cb with cc := t } })) ∧
      exec (.decSetCallback 3#8 b) s =
        .next (respond 0#16 (s.withD { s.d with cb := { s.d.cb with pb := t } })) ∧
      exec (.decSetCallback 4#8 b) s =
        .next (respond 0#16 (s.withD { s.d with cb := { s.d.cb with rt := t } })))

/-- 41_message_decoder.md R158, R159, 42_note_tracker.md R173, R174, 43_top_level.md R206: each read answers its value and writes
nothing; the response is read as a number. -/
def Obligations.RegisterReadsResult : Prop :=
  ∀ s : State, s.fault = none → s.issuer = .C →
    (∃ r : RespWord, r.toNat = s.d.chan.toNat ∧ exec .decGetChannel s = .next (respond r s)) ∧
    (∃ r : RespWord, r.toNat = s.d.omni.toNat ∧ exec .decGetOmni s = .next (respond r s)) ∧
    (s.t.held.length < 32 →
      ∃ r : RespWord, r.toNat = s.t.held.length ∧ exec .trkHeldCount s = .next (respond r s)) ∧
    (∃ r : RespWord, exec .trkSoundingNote s = .next (respond r s) ∧
      (s.t.held = [] → r.toNat = s.t.latched.toNat) ∧
      (∀ l h, s.t.held = l ++ [h] → r.toNat = h.note.toNat)) ∧
    (∃ r : RespWord, exec .topGetGate s = .next (respond r s) ∧
      (s.t.held = [] → r = 0#16) ∧ (s.t.held ≠ [] → r = 1#16))

/-! NotePriorityTracker -/

/-- 42_note_tracker.md R170, R171: a held note keeps its place and velocity, a new note at capacity is dropped with no older note
removed, and otherwise the note goes to the end and is latched. -/
def Obligations.TrkNoteOnResult : Prop :=
  ∀ (n v : Data7) (s : State), s.fault = none → s.issuer = .C →
    (n ∈ s.t.held.map Held.note →
      exec (.trkNoteOn (n.setWidth 8) (v.setWidth 8)) s = .next (respond 0#16 s)) ∧
    (n ∉ s.t.held.map Held.note → s.t.held.length = s.cfg.trkCap →
      exec (.trkNoteOn (n.setWidth 8) (v.setWidth 8)) s = .next (respond 0#16 s)) ∧
    (n ∉ s.t.held.map Held.note → s.t.held.length ≠ s.cfg.trkCap →
      exec (.trkNoteOn (n.setWidth 8) (v.setWidth 8)) s =
        .next (respond 0#16 (s.withT { held := s.t.held ++ [{ note := n, vel := v }], latched := n })))

/-- 42_note_tracker.md R172: an absent note changes nothing; a held note is removed, the others keep their order, and a remaining
last note is latched while an emptied tracker keeps the latched note. R172 says the note's index is unique; that of a note
held twice, in states no run reaches, the first entry goes is the model's choice (log entry 13). -/
def Obligations.TrkNoteOffResult : Prop :=
  ∀ (n : Data7) (s : State), s.fault = none → s.issuer = .C →
    (n ∉ s.t.held.map Held.note → exec (.trkNoteOff (n.setWidth 8)) s = .next (respond 0#16 s)) ∧
    (∀ l v r, s.t.held = l ++ { note := n, vel := v } :: r → n ∉ l.map Held.note →
      ∃ x : Data7, exec (.trkNoteOff (n.setWidth 8)) s =
          .next (respond 0#16 (s.withT { held := l ++ r, latched := x })) ∧
        (l ++ r = [] → x = s.t.latched) ∧ (∀ k h, l ++ r = k ++ [h] → x = h.note))

/-- 42_note_tracker.md R175. -/
def Obligations.TrkResetResult : Prop :=
  ∀ s : State, s.fault = none → s.issuer = .C →
    exec .trkReset s = .next (respond 0#16 (s.withT { held := [], latched := s.cfg.defaultNote }))

/-- 10_state.md R44: the sounding note is the last held note, else the latched note, and under the tracker's invariants always the
latched note; 10_state.md R49: it is the output `pitch`. -/
def Obligations.SoundingNoteIsLatched : Prop :=
  ∀ s : State, TrackerInv s.cfg.trkCap s.t →
    (∀ l h, s.t.held = l ++ [h] → pitch s = h.note) ∧ (s.t.held = [] → pitch s = s.t.latched) ∧
    pitch s = s.t.latched

/-- 42_note_tracker.md R176: whatever instruction runs, other than `TRK_RESET` and `TOP_RX_ERROR`, an empty tracker after it keeps the
latched note of before it: releasing every note leaves the pitch. -/
def Obligations.LatchedNotePersists : Prop :=
  ∀ (i : Instr) (s t : State), exec i s = .next t →
    i ≠ .trkReset → i ≠ .topRxError → t.t.held = [] → t.t.latched = s.t.latched

/-- 43_top_level.md R203, 10_state.md R48: a note-on leaves `gate` true whichever branch it takes (of a tracker that can hold a
note), and a note-off leaves it false exactly when the tracker is empty. -/
def Obligations.GateAfterNoteEvents : Prop :=
  ∀ (n v : Data7) (s : State), 1 ≤ s.cfg.trkCap →
    gate (s.withT (trackerNoteOn s.cfg.trkCap n v s.t)) = true ∧
    (gate (s.withT (trackerNoteOff n s.t)) = false ↔ (trackerNoteOff n s.t).held = []) ∧
    ((∀ h ∈ s.t.held, h.note = n) → TrackerInv s.cfg.trkCap s.t →
      gate (s.withT (trackerNoteOff n s.t)) = false)

/-! Top level -/

/-- 43_top_level.md R200, R201: the step that issues `TOP_UPDATE` is its first drain step (log entry 9): on an empty queue the command
is complete; otherwise the oldest byte is popped and fed, and `U.busy` is set. -/
def Obligations.TopUpdateResult : Prop :=
  ∀ s : State, s.fault = none → s.issuer = .C → s.cfg.feedPath = .queued →
    (s.q.wi = s.q.ri → exec .topUpdate s = .next (respond 0#16 (s.withBusy false))) ∧
    (∀ b, s.q.wi ≠ s.q.ri → s.q.ri < s.cfg.qcap → memGet s.q.mem s.q.ri = some b →
      exec .topUpdate s = .next (feedByte b
        ((s.withQ { mem := s.q.mem, wi := s.q.wi, ri := (s.q.ri + 1) % s.cfg.qcap }).withBusy true)))

/-- 43_top_level.md R200: a `TOP_UPDATE` presented at C, when P takes no step, ends after one drain step for each queued byte and one
that finds the queue empty; it has fed exactly the queued bytes, oldest first, and answers no value. That the step that issues
the command is the first of these drain steps, so that C takes queued bytes plus one steps, is DEDUCED (log entry 9). -/
def Obligations.UpdateDrainsQueuedBytes : Prop :=
  ∀ (s : State) (ws : List CmdWord) (rest : List Agent),
    Inv s → s.fault = none → s.busy = false → s.cfg.feedPath = .queued →
    s.portC.cmds = 0x400000#24 :: ws → s.turns = List.replicate (qCount s + 1) .C ++ rest →
    ∃ t : State, Host.Core.run Sys2Proof.core (qCount s + 1) s = .next t ∧
      t.busy = false ∧ t.fault = none ∧ t.turns = rest ∧
      t.q.mem = s.q.mem ∧ t.q.wi = s.q.wi ∧ t.q.ri = s.q.wi ∧
      t.d = (feedAll (queuedBytes s) s).d ∧ t.t = (feedAll (queuedBytes s) s).t ∧
      t.events = (feedAll (queuedBytes s) s).events ∧
      t.portC.cmds = ws ∧ t.portC.resp = s.portC.resp ++ [0#16] ∧ t.portP = s.portP

/-- 43_top_level.md R202, 41_message_decoder.md R140: what the decoder, the tracker and the event log will be once the queue is
drained does not depend on how many `TOP_UPDATE` commands drain it or when: no step of C that issues a `TOP_UPDATE` or goes on with
one changes it, whatever P pushed in between, and a successful push by P adds its byte at the end. That the issuing step is itself a
drain step is DEDUCED (log entry 9). -/
def Obligations.DrainOrderIndependence : Prop :=
  ∀ s t : State, Inv s → s.fault = none → step s = .next t →
    (∀ rest, s.turns = .C :: rest →
      (s.busy = true ∨
        (s.busy = false ∧ s.cfg.feedPath = .queued ∧ ∃ ws, s.portC.cmds = 0x400000#24 :: ws)) →
      (feedAll (queuedBytes t) t).d = (feedAll (queuedBytes s) s).d ∧
      (feedAll (queuedBytes t) t).t = (feedAll (queuedBytes s) s).t ∧
      (feedAll (queuedBytes t) t).events = (feedAll (queuedBytes s) s).events) ∧
    (∀ rest b ws, s.turns = .P :: rest → s.portP.cmds = cmdOf 0x11#8 b 0#8 :: ws → qFull s = false →
      (feedAll (queuedBytes t) t).d = (feedByte b (feedAll (queuedBytes s) s)).d ∧
      (feedAll (queuedBytes t) t).t = (feedByte b (feedAll (queuedBytes s) s)).t ∧
      (feedAll (queuedBytes t) t).events = (feedByte b (feedAll (queuedBytes s) s)).events)

/-- 43_top_level.md R205: `TOP_RX_ERROR` has the effect of `DEC_RESET` and, where `P_ERR_RESETS_TRACKER`, of `TRK_RESET`; the queue is
not touched. -/
def Obligations.TopRxErrorResult : Prop :=
  ∀ s : State, s.fault = none → s.issuer = .C →
    (s.cfg.errResetsTracker = false →
      exec .topRxError s = .next (respond 0#16 (s.withD { s.d with
        state := .idle, rs := 0#8, cs := 0#8, d1 := 0#7, d2 := 0#7, exp := 0#2 }))) ∧
    (s.cfg.errResetsTracker = true →
      exec .topRxError s = .next (respond 0#16 ((s.withD { s.d with
        state := .idle, rs := 0#8, cs := 0#8, d1 := 0#7, d2 := 0#7, exp := 0#2 }).withT
          { held := [], latched := s.cfg.defaultNote })))

/-! The whole machine -/

/-- 20_memory.md R67: the eight read-only commands write nothing but their response, and issued twice with no step in between answer the
same response twice. -/
def Obligations.ReadOnlyCommandsIdempotent : Prop :=
  ∀ (i : Instr) (s t : State), i ∈ readOnlyCommands → Admitted i s → exec i s = .next t →
    ∃ r : RespWord, t = respond r s ∧ exec i t = .next (respond r t)

/-- 10_state.md R53, R21, R22: with `P_FEED_PATH = QUEUED` a step of P writes the storage and the write index only; and no step of C but
`Q_INIT` writes the write index. The fault register, the ports and the turn are not owned by an agent. -/
def Obligations.AgentsWriteOnlyTheirOwn : Prop :=
  ∀ (s t : State) (rest : List Agent), s.cfg.feedPath = .queued → step s = .next t →
    (s.turns = .P :: rest →
      t.d = s.d ∧ t.t = s.t ∧ t.busy = s.busy ∧ t.events = s.events ∧ t.q.ri = s.q.ri ∧ t.portC = s.portC) ∧
    (s.turns = .C :: rest →
      t.q.mem = s.q.mem ∧ t.portP = s.portP ∧
      ((∀ ws, s.portC.cmds ≠ 0x100000#24 :: ws) → t.q.wi = s.q.wi))

/-- 00_scope.md R6, 10_state.md R46, R47: no step changes a parameter; the event log only grows; a recorded fault is never cleared.
That both ports' responses (30_encoding.md R93) are kept in State, oldest first, for the observation of
70_reset_and_hazards.md R266, and so only grow, is the model's choice (log entry 4). -/
def Obligations.ParametersFixedAndLogsGrow : Prop :=
  ∀ s t : State, step s = .next t →
    t.cfg = s.cfg ∧ (∃ l, t.events = s.events ++ l) ∧
    (∀ a : Agent, ∃ l, (t.port a).resp = (s.port a).resp ++ l) ∧ (t.fault = none → s.fault = none)

/-- 43_top_level.md R208: the reference voltage, an exact rational; `P_ZERO_REF_NOTE` is free. -/
def Obligations.ReferenceVoltage : Prop :=
  ∀ s : State, voltage s * 12 = ((pitch s).toNat : Rat) - (s.cfg.zeroRefNote.toNat : Rat)
end

