-- ==== Sys2Proof/Laws/State.lean ====
section
/-! SUPPORT. One lemma per field per update of State, so that no proof unfolds an update. -/

namespace Sys2Proof.Machine

@[simp] theorem State.withQ_cfg (s : State) (q : Queue) : (s.withQ q).cfg = s.cfg := rfl
@[simp] theorem State.withQ_q (s : State) (q : Queue) : (s.withQ q).q = q := rfl
@[simp] theorem State.withQ_d (s : State) (q : Queue) : (s.withQ q).d = s.d := rfl
@[simp] theorem State.withQ_t (s : State) (q : Queue) : (s.withQ q).t = s.t := rfl
@[simp] theorem State.withQ_busy (s : State) (q : Queue) : (s.withQ q).busy = s.busy := rfl
@[simp] theorem State.withQ_fault (s : State) (q : Queue) : (s.withQ q).fault = s.fault := rfl
@[simp] theorem State.withQ_events (s : State) (q : Queue) : (s.withQ q).events = s.events := rfl
@[simp] theorem State.withQ_portP (s : State) (q : Queue) : (s.withQ q).portP = s.portP := rfl
@[simp] theorem State.withQ_portC (s : State) (q : Queue) : (s.withQ q).portC = s.portC := rfl
@[simp] theorem State.withQ_turns (s : State) (q : Queue) : (s.withQ q).turns = s.turns := rfl
@[simp] theorem State.withQ_issuer (s : State) (q : Queue) : (s.withQ q).issuer = s.issuer := rfl
@[simp] theorem State.withQ_port (s : State) (q : Queue) (g : Agent) : (s.withQ q).port g = s.port g := by
  cases g <;> rfl
@[simp] theorem State.withQ_self (s : State) : s.withQ s.q = s := rfl
@[simp] theorem State.withQ_withQ (s : State) (q q2 : Queue) : (s.withQ q).withQ q2 = s.withQ q2 := rfl

@[simp] theorem State.withD_cfg (s : State) (d : Decoder) : (s.withD d).cfg = s.cfg := rfl
@[simp] theorem State.withD_q (s : State) (d : Decoder) : (s.withD d).q = s.q := rfl
@[simp] theorem State.withD_d (s : State) (d : Decoder) : (s.withD d).d = d := rfl
@[simp] theorem State.withD_t (s : State) (d : Decoder) : (s.withD d).t = s.t := rfl
@[simp] theorem State.withD_busy (s : State) (d : Decoder) : (s.withD d).busy = s.busy := rfl
@[simp] theorem State.withD_fault (s : State) (d : Decoder) : (s.withD d).fault = s.fault := rfl
@[simp] theorem State.withD_events (s : State) (d : Decoder) : (s.withD d).events = s.events := rfl
@[simp] theorem State.withD_portP (s : State) (d : Decoder) : (s.withD d).portP = s.portP := rfl
@[simp] theorem State.withD_portC (s : State) (d : Decoder) : (s.withD d).portC = s.portC := rfl
@[simp] theorem State.withD_turns (s : State) (d : Decoder) : (s.withD d).turns = s.turns := rfl
@[simp] theorem State.withD_issuer (s : State) (d : Decoder) : (s.withD d).issuer = s.issuer := rfl
@[simp] theorem State.withD_port (s : State) (d : Decoder) (g : Agent) : (s.withD d).port g = s.port g := by
  cases g <;> rfl
@[simp] theorem State.withD_self (s : State) : s.withD s.d = s := rfl
@[simp] theorem State.withD_withD (s : State) (d d2 : Decoder) : (s.withD d).withD d2 = s.withD d2 := rfl

@[simp] theorem State.withT_cfg (s : State) (t : Tracker) : (s.withT t).cfg = s.cfg := rfl
@[simp] theorem State.withT_q (s : State) (t : Tracker) : (s.withT t).q = s.q := rfl
@[simp] theorem State.withT_d (s : State) (t : Tracker) : (s.withT t).d = s.d := rfl
@[simp] theorem State.withT_t (s : State) (t : Tracker) : (s.withT t).t = t := rfl
@[simp] theorem State.withT_busy (s : State) (t : Tracker) : (s.withT t).busy = s.busy := rfl
@[simp] theorem State.withT_fault (s : State) (t : Tracker) : (s.withT t).fault = s.fault := rfl
@[simp] theorem State.withT_events (s : State) (t : Tracker) : (s.withT t).events = s.events := rfl
@[simp] theorem State.withT_portP (s : State) (t : Tracker) : (s.withT t).portP = s.portP := rfl
@[simp] theorem State.withT_portC (s : State) (t : Tracker) : (s.withT t).portC = s.portC := rfl
@[simp] theorem State.withT_turns (s : State) (t : Tracker) : (s.withT t).turns = s.turns := rfl
@[simp] theorem State.withT_issuer (s : State) (t : Tracker) : (s.withT t).issuer = s.issuer := rfl
@[simp] theorem State.withT_port (s : State) (t : Tracker) (g : Agent) : (s.withT t).port g = s.port g := by
  cases g <;> rfl
@[simp] theorem State.withT_self (s : State) : s.withT s.t = s := rfl
@[simp] theorem State.withT_withT (s : State) (t t2 : Tracker) : (s.withT t).withT t2 = s.withT t2 := rfl

@[simp] theorem State.withBusy_cfg (s : State) (b : Bool) : (s.withBusy b).cfg = s.cfg := rfl
@[simp] theorem State.withBusy_q (s : State) (b : Bool) : (s.withBusy b).q = s.q := rfl
@[simp] theorem State.withBusy_d (s : State) (b : Bool) : (s.withBusy b).d = s.d := rfl
@[simp] theorem State.withBusy_t (s : State) (b : Bool) : (s.withBusy b).t = s.t := rfl
@[simp] theorem State.withBusy_busy (s : State) (b : Bool) : (s.withBusy b).busy = b := rfl
@[simp] theorem State.withBusy_fault (s : State) (b : Bool) : (s.withBusy b).fault = s.fault := rfl
@[simp] theorem State.withBusy_events (s : State) (b : Bool) : (s.withBusy b).events = s.events := rfl
@[simp] theorem State.withBusy_portP (s : State) (b : Bool) : (s.withBusy b).portP = s.portP := rfl
@[simp] theorem State.withBusy_portC (s : State) (b : Bool) : (s.withBusy b).portC = s.portC := rfl
@[simp] theorem State.withBusy_turns (s : State) (b : Bool) : (s.withBusy b).turns = s.turns := rfl
@[simp] theorem State.withBusy_issuer (s : State) (b : Bool) : (s.withBusy b).issuer = s.issuer := rfl
@[simp] theorem State.withBusy_port (s : State) (b : Bool) (g : Agent) : (s.withBusy b).port g = s.port g := by
  cases g <;> rfl
@[simp] theorem State.withBusy_self (s : State) : s.withBusy s.busy = s := rfl
@[simp] theorem State.withBusy_withBusy (s : State) (b b2 : Bool) : (s.withBusy b).withBusy b2 = s.withBusy b2 := rfl

@[simp] theorem State.withFault_cfg (s : State) (f : Option FaultRecord) : (s.withFault f).cfg = s.cfg := rfl
@[simp] theorem State.withFault_q (s : State) (f : Option FaultRecord) : (s.withFault f).q = s.q := rfl
@[simp] theorem State.withFault_d (s : State) (f : Option FaultRecord) : (s.withFault f).d = s.d := rfl
@[simp] theorem State.withFault_t (s : State) (f : Option FaultRecord) : (s.withFault f).t = s.t := rfl
@[simp] theorem State.withFault_busy (s : State) (f : Option FaultRecord) : (s.withFault f).busy = s.busy := rfl
@[simp] theorem State.withFault_fault (s : State) (f : Option FaultRecord) : (s.withFault f).fault = f := rfl
@[simp] theorem State.withFault_events (s : State) (f : Option FaultRecord) : (s.withFault f).events = s.events := rfl
@[simp] theorem State.withFault_portP (s : State) (f : Option FaultRecord) : (s.withFault f).portP = s.portP := rfl
@[simp] theorem State.withFault_portC (s : State) (f : Option FaultRecord) : (s.withFault f).portC = s.portC := rfl
@[simp] theorem State.withFault_turns (s : State) (f : Option FaultRecord) : (s.withFault f).turns = s.turns := rfl
@[simp] theorem State.withFault_issuer (s : State) (f : Option FaultRecord) : (s.withFault f).issuer = s.issuer := rfl
@[simp] theorem State.withFault_port (s : State) (f : Option FaultRecord) (g : Agent) : (s.withFault f).port g = s.port g := by
  cases g <;> rfl
@[simp] theorem State.withFault_self (s : State) : s.withFault s.fault = s := rfl
@[simp] theorem State.withFault_withFault (s : State) (f f2 : Option FaultRecord) : (s.withFault f).withFault f2 = s.withFault f2 := rfl

@[simp] theorem State.withEvents_cfg (s : State) (e : List Event) : (s.withEvents e).cfg = s.cfg := rfl
@[simp] theorem State.withEvents_q (s : State) (e : List Event) : (s.withEvents e).q = s.q := rfl
@[simp] theorem State.withEvents_d (s : State) (e : List Event) : (s.withEvents e).d = s.d := rfl
@[simp] theorem State.withEvents_t (s : State) (e : List Event) : (s.withEvents e).t = s.t := rfl
@[simp] theorem State.withEvents_busy (s : State) (e : List Event) : (s.withEvents e).busy = s.busy := rfl
@[simp] theorem State.withEvents_fault (s : State) (e : List Event) : (s.withEvents e).fault = s.fault := rfl
@[simp] theorem State.withEvents_events (s : State) (e : List Event) : (s.withEvents e).events = e := rfl
@[simp] theorem State.withEvents_portP (s : State) (e : List Event) : (s.withEvents e).portP = s.portP := rfl
@[simp] theorem State.withEvents_portC (s : State) (e : List Event) : (s.withEvents e).portC = s.portC := rfl
@[simp] theorem State.withEvents_turns (s : State) (e : List Event) : (s.withEvents e).turns = s.turns := rfl
@[simp] theorem State.withEvents_issuer (s : State) (e : List Event) : (s.withEvents e).issuer = s.issuer := rfl
@[simp] theorem State.withEvents_port (s : State) (e : List Event) (g : Agent) : (s.withEvents e).port g = s.port g := by
  cases g <;> rfl
@[simp] theorem State.withEvents_self (s : State) : s.withEvents s.events = s := rfl
@[simp] theorem State.withEvents_withEvents (s : State) (e e2 : List Event) : (s.withEvents e).withEvents e2 = s.withEvents e2 := rfl

@[simp] theorem State.withTurns_cfg (s : State) (l : List Agent) : (s.withTurns l).cfg = s.cfg := rfl
@[simp] theorem State.withTurns_q (s : State) (l : List Agent) : (s.withTurns l).q = s.q := rfl
@[simp] theorem State.withTurns_d (s : State) (l : List Agent) : (s.withTurns l).d = s.d := rfl
@[simp] theorem State.withTurns_t (s : State) (l : List Agent) : (s.withTurns l).t = s.t := rfl
@[simp] theorem State.withTurns_busy (s : State) (l : List Agent) : (s.withTurns l).busy = s.busy := rfl
@[simp] theorem State.withTurns_fault (s : State) (l : List Agent) : (s.withTurns l).fault = s.fault := rfl
@[simp] theorem State.withTurns_events (s : State) (l : List Agent) : (s.withTurns l).events = s.events := rfl
@[simp] theorem State.withTurns_portP (s : State) (l : List Agent) : (s.withTurns l).portP = s.portP := rfl
@[simp] theorem State.withTurns_portC (s : State) (l : List Agent) : (s.withTurns l).portC = s.portC := rfl
@[simp] theorem State.withTurns_turns (s : State) (l : List Agent) : (s.withTurns l).turns = l := rfl
@[simp] theorem State.withTurns_issuer (s : State) (l : List Agent) : (s.withTurns l).issuer = s.issuer := rfl
@[simp] theorem State.withTurns_port (s : State) (l : List Agent) (g : Agent) : (s.withTurns l).port g = s.port g := by
  cases g <;> rfl
@[simp] theorem State.withTurns_self (s : State) : s.withTurns s.turns = s := rfl
@[simp] theorem State.withTurns_withTurns (s : State) (l l2 : List Agent) : (s.withTurns l).withTurns l2 = s.withTurns l2 := rfl

@[simp] theorem State.withIssuer_cfg (s : State) (a : Agent) : (s.withIssuer a).cfg = s.cfg := rfl
@[simp] theorem State.withIssuer_q (s : State) (a : Agent) : (s.withIssuer a).q = s.q := rfl
@[simp] theorem State.withIssuer_d (s : State) (a : Agent) : (s.withIssuer a).d = s.d := rfl
@[simp] theorem State.withIssuer_t (s : State) (a : Agent) : (s.withIssuer a).t = s.t := rfl
@[simp] theorem State.withIssuer_busy (s : State) (a : Agent) : (s.withIssuer a).busy = s.busy := rfl
@[simp] theorem State.withIssuer_fault (s : State) (a : Agent) : (s.withIssuer a).fault = s.fault := rfl
@[simp] theorem State.withIssuer_events (s : State) (a : Agent) : (s.withIssuer a).events = s.events := rfl
@[simp] theorem State.withIssuer_portP (s : State) (a : Agent) : (s.withIssuer a).portP = s.portP := rfl
@[simp] theorem State.withIssuer_portC (s : State) (a : Agent) : (s.withIssuer a).portC = s.portC := rfl
@[simp] theorem State.withIssuer_turns (s : State) (a : Agent) : (s.withIssuer a).turns = s.turns := rfl
@[simp] theorem State.withIssuer_issuer (s : State) (a : Agent) : (s.withIssuer a).issuer = a := rfl
@[simp] theorem State.withIssuer_port (s : State) (a : Agent) (g : Agent) : (s.withIssuer a).port g = s.port g := by
  cases g <;> rfl
@[simp] theorem State.withIssuer_self (s : State) : s.withIssuer s.issuer = s := rfl
@[simp] theorem State.withIssuer_withIssuer (s : State) (a a2 : Agent) : (s.withIssuer a).withIssuer a2 = s.withIssuer a2 := rfl

@[simp] theorem State.withPort_cfg (s : State) (a : Agent) (p : Port) : (s.withPort a p).cfg = s.cfg := by
  cases a <;> rfl
@[simp] theorem State.withPort_q (s : State) (a : Agent) (p : Port) : (s.withPort a p).q = s.q := by
  cases a <;> rfl
@[simp] theorem State.withPort_d (s : State) (a : Agent) (p : Port) : (s.withPort a p).d = s.d := by
  cases a <;> rfl
@[simp] theorem State.withPort_t (s : State) (a : Agent) (p : Port) : (s.withPort a p).t = s.t := by
  cases a <;> rfl
@[simp] theorem State.withPort_busy (s : State) (a : Agent) (p : Port) : (s.withPort a p).busy = s.busy := by
  cases a <;> rfl
@[simp] theorem State.withPort_fault (s : State) (a : Agent) (p : Port) : (s.withPort a p).fault = s.fault := by
  cases a <;> rfl
@[simp] theorem State.withPort_events (s : State) (a : Agent) (p : Port) : (s.withPort a p).events = s.events := by
  cases a <;> rfl
@[simp] theorem State.withPort_turns (s : State) (a : Agent) (p : Port) : (s.withPort a p).turns = s.turns := by
  cases a <;> rfl
@[simp] theorem State.withPort_issuer (s : State) (a : Agent) (p : Port) : (s.withPort a p).issuer = s.issuer := by
  cases a <;> rfl
@[simp] theorem State.withPort_P_portP (s : State) (p : Port) : (s.withPort .P p).portP = p := rfl
@[simp] theorem State.withPort_P_portC (s : State) (p : Port) : (s.withPort .P p).portC = s.portC := rfl
@[simp] theorem State.withPort_C_portP (s : State) (p : Port) : (s.withPort .C p).portP = s.portP := rfl
@[simp] theorem State.withPort_C_portC (s : State) (p : Port) : (s.withPort .C p).portC = p := rfl
@[simp] theorem State.withPort_port (s : State) (a g : Agent) (p : Port) :
    (s.withPort a p).port g = if a = g then p else s.port g := by
  cases a <;> cases g <;> rfl
@[simp] theorem State.withPort_self (s : State) (a : Agent) : s.withPort a (s.port a) = s := by
  cases a <;> rfl
@[simp] theorem State.withPort_withPort (s : State) (a : Agent) (p p2 : Port) :
    (s.withPort a p).withPort a p2 = s.withPort a p2 := by
  cases a <;> rfl
@[simp] theorem State.port_P (s : State) : s.port .P = s.portP := rfl
@[simp] theorem State.port_C (s : State) : s.port .C = s.portC := rfl

@[simp] theorem State.resetWith_cfg (p : Params) : (State.resetWith p).cfg = p := rfl
@[simp] theorem State.resetWith_q (p : Params) : (State.resetWith p).q = { mem := [], wi := 0, ri := 0 } := rfl
@[simp] theorem State.resetWith_t (p : Params) : (State.resetWith p).t = { held := [], latched := p.defaultNote } := rfl
@[simp] theorem State.resetWith_busy (p : Params) : (State.resetWith p).busy = false := rfl
@[simp] theorem State.resetWith_fault (p : Params) : (State.resetWith p).fault = none := rfl
@[simp] theorem State.resetWith_events (p : Params) : (State.resetWith p).events = [] := rfl
@[simp] theorem State.resetWith_turns (p : Params) : (State.resetWith p).turns = [] := rfl
@[simp] theorem State.resetWith_issuer (p : Params) : (State.resetWith p).issuer = .C := rfl

end Sys2Proof.Machine
end

