-- ==== Sys2Proof/Laws/Memory.lean ====
section
/-! SUPPORT. The queue storage: read after write, the canonical form, and what `MemRead` and `MemWrite` answer. -/

namespace Sys2Proof.Machine

@[simp] theorem memGet_nil (i : Nat) : memGet [] i = none := rfl

/-- Reading the slot just written gives the value written. -/
@[simp] theorem memGet_memSet_same (m : Memory) (i : Nat) (v : Byte) : memGet (memSet m i v) i = some v := by
  induction m with
  | nil => simp [memSet, memGet]
  | cons c m ih =>
    obtain ⟨a, b⟩ := c
    unfold memSet
    split
    · simp [memGet]
    · split
      · simp [memGet]
      · rename_i h
        simp [memGet, h, ih]

/-- A write leaves every other slot alone. -/
theorem memGet_memSet_other (m : Memory) {i j : Nat} (v : Byte) (h : j ≠ i) :
    memGet (memSet m i v) j = memGet m j := by
  induction m with
  | nil => simp [memSet, memGet, h.symm]
  | cons c m ih =>
    obtain ⟨a, b⟩ := c
    unfold memSet
    split
    · simp [memGet, h.symm]
    · split
      · rename_i h2
        subst h2
        simp [memGet, h.symm]
      · simp [memGet, ih]

/-- Whatever holds of the written slot and of every old one holds of every slot after a write. -/
theorem memSet_all {P : Nat → Prop} {m : Memory} {i : Nat} {v : Byte} (hi : P i) (hm : ∀ c ∈ m, P c.1) :
    ∀ c ∈ memSet m i v, P c.1 := by
  induction m with
  | nil => simpa [memSet] using hi
  | cons c m ih =>
    obtain ⟨a, b⟩ := c
    have ha : P a := hm (a, b) (by simp)
    have hm' : ∀ c ∈ m, P c.1 := fun c hc => hm c (by simp [hc])
    unfold memSet
    split
    · intro c hc
      simp only [List.mem_cons] at hc
      obtain rfl | rfl | hc := hc
      · exact hi
      · exact ha
      · exact hm' c hc
    · split
      · intro c hc
        simp only [List.mem_cons] at hc
        obtain rfl | hc := hc
        · exact hi
        · exact hm' c hc
      · intro c hc
        simp only [List.mem_cons] at hc
        obtain rfl | hc := hc
        · exact ha
        · exact ih hm' c hc

/-- A write keeps the canonical form. -/
theorem memSet_wf {m : Memory} (i : Nat) (v : Byte) (h : memWf m) : memWf (memSet m i v) := by
  induction m with
  | nil => simp [memSet, memWf]
  | cons c m ih =>
    obtain ⟨a, b⟩ := c
    have hc := List.pairwise_cons.mp h
    unfold memSet
    split
    · rename_i hlt
      refine List.pairwise_cons.mpr ⟨?_, h⟩
      intro c hc'
      simp only [List.mem_cons] at hc'
      obtain rfl | hc' := hc'
      · exact hlt
      · exact Nat.lt_trans hlt (hc.1 c hc')
    · split
      · rename_i heq
        subst heq
        exact List.pairwise_cons.mpr ⟨hc.1, hc.2⟩
      · rename_i h1 h2
        refine List.pairwise_cons.mpr ⟨?_, ih hc.2⟩
        exact memSet_all (P := fun n => a < n) (by omega) hc.1

/-- `MemRead` answers a byte exactly where the slot exists and was written. -/
theorem memRead_ok {i : Nat} {s : State} {b : Byte} :
    memRead i s = .ok b ↔ i < s.cfg.qcap ∧ memGet s.q.mem i = some b := by
  unfold memRead
  split
  · rename_i h
    simp only [reduceCtorEq, false_iff]
    omega
  · rename_i h
    cases hm : memGet s.q.mem i with
    | none => simp
    | some c => simp; omega

/-- `MemWrite` answers the storage with that slot written, exactly where the slot exists. -/
theorem memWrite_ok {i : Nat} {v : Byte} {s t : State} :
    memWrite i v s = .ok t ↔ i < s.cfg.qcap ∧ t = s.withQ { s.q with mem := memSet s.q.mem i v } := by
  unfold memWrite
  split
  · simp only [reduceCtorEq, false_iff]
    omega
  · rename_i h
    simp only [Except.ok.injEq]
    constructor
    · rintro rfl
      exact ⟨by omega, rfl⟩
    · exact fun h => h.2.symm

end Sys2Proof.Machine
end

