-- ==== Sys2Proof/Laws/Ops.lean ====
section
/-! SUPPORT. What the shared operations can do: the response, the fault entry, the common checks, push and pop. -/

namespace Sys2Proof.Machine

@[simp] theorem respond_cfg (r : RespWord) (s : State) : (respond r s).cfg = s.cfg := by simp [respond]
@[simp] theorem respond_q (r : RespWord) (s : State) : (respond r s).q = s.q := by simp [respond]
@[simp] theorem respond_d (r : RespWord) (s : State) : (respond r s).d = s.d := by simp [respond]
@[simp] theorem respond_t (r : RespWord) (s : State) : (respond r s).t = s.t := by simp [respond]
@[simp] theorem respond_busy (r : RespWord) (s : State) : (respond r s).busy = s.busy := by simp [respond]
@[simp] theorem respond_fault (r : RespWord) (s : State) : (respond r s).fault = s.fault := by simp [respond]
@[simp] theorem respond_events (r : RespWord) (s : State) : (respond r s).events = s.events := by simp [respond]
@[simp] theorem respond_turns (r : RespWord) (s : State) : (respond r s).turns = s.turns := by simp [respond]
@[simp] theorem respond_issuer (r : RespWord) (s : State) : (respond r s).issuer = s.issuer := by simp [respond]
@[simp] theorem respond_cmds (r : RespWord) (s : State) (a : Agent) :
    ((respond r s).port a).cmds = (s.port a).cmds := by
  cases h : s.issuer <;> cases a <;> simp [respond, h]
@[simp] theorem respond_resp (r : RespWord) (s : State) (a : Agent) :
    ((respond r s).port a).resp = if s.issuer = a then (s.port a).resp ++ [r] else (s.port a).resp := by
  cases h : s.issuer <;> cases a <;> simp [respond, h]

@[simp] theorem raiseFault_cfg (r : Reason) (w : CmdWord) (s : State) : (raiseFault r w s).cfg = s.cfg := rfl
@[simp] theorem raiseFault_q (r : Reason) (w : CmdWord) (s : State) : (raiseFault r w s).q = s.q := rfl
@[simp] theorem raiseFault_d (r : Reason) (w : CmdWord) (s : State) : (raiseFault r w s).d = s.d := rfl
@[simp] theorem raiseFault_t (r : Reason) (w : CmdWord) (s : State) : (raiseFault r w s).t = s.t := rfl
@[simp] theorem raiseFault_busy (r : Reason) (w : CmdWord) (s : State) : (raiseFault r w s).busy = s.busy := rfl
@[simp] theorem raiseFault_events (r : Reason) (w : CmdWord) (s : State) :
    (raiseFault r w s).events = s.events := rfl
@[simp] theorem raiseFault_turns (r : Reason) (w : CmdWord) (s : State) : (raiseFault r w s).turns = s.turns := rfl
@[simp] theorem raiseFault_issuer (r : Reason) (w : CmdWord) (s : State) :
    (raiseFault r w s).issuer = s.issuer := rfl
@[simp] theorem raiseFault_fault (r : Reason) (w : CmdWord) (s : State) :
    (raiseFault r w s).fault = some { reason := r, word := w, agent := s.issuer } := rfl
@[simp] theorem raiseFault_portP (r : Reason) (w : CmdWord) (s : State) :
    (raiseFault r w s).portP = s.portP := rfl
@[simp] theorem raiseFault_portC (r : Reason) (w : CmdWord) (s : State) :
    (raiseFault r w s).portC = s.portC := rfl

@[simp] theorem finish_next {e : Except Fault State} {t : State} : finish e = .next t ↔ e = .ok t := by
  cases e <;> simp [finish]

/-- Everything a command can do when it answers a next state: its own effect, or the fault entry of the first check
that fails. -/
theorem command_next {i : Instr} {body : State → Except Fault State} {s t : State} :
    command i body s = .next t ↔
      s.fault = none ∧
        ((admits s.cfg s.issuer i = true ∧ operandsInRange i = true ∧ body s = .ok t) ∨
         (admits s.cfg s.issuer i = true ∧ operandsInRange i = false ∧
           t = raiseFault .operand (commandWord i) s) ∨
         (admits s.cfg s.issuer i = false ∧ t = raiseFault .context (commandWord i) s)) := by
  unfold command
  cases hf : s.fault with
  | some r => simp
  | none =>
    cases ha : admits s.cfg s.issuer i <;> cases ho : operandsInRange i <;> simp <;>
      exact eq_comm

/-- A command whose checks pass has its own effect. -/
theorem command_admitted {i : Instr} {body : State → Except Fault State} {s : State} (hf : s.fault = none)
    (ha : admits s.cfg s.issuer i = true) (ho : operandsInRange i = true) :
    command i body s = finish (body s) := by
  simp [command, hf, ha, ho]

/-- An input byte has its effect whenever no fault is recorded. -/
theorem inputByte_next {body : State → State} {s t : State} :
    inputByte body s = .next t ↔ s.fault = none ∧ t = body s := by
  unfold inputByte
  cases hf : s.fault <;> simp [eq_comm]

/-- Everything a push can do: drop the byte on a full queue, or write the slot at the write index and advance it. -/
theorem pushByte_ok {b : Byte} {s : State} {r : Bool × State} :
    pushByte b s = .ok r ↔
      (qFull s = true ∧ r = (false, s)) ∨
      (qFull s = false ∧ s.q.wi < s.cfg.qcap ∧
        r = (true, s.withQ { s.q with mem := memSet s.q.mem s.q.wi b, wi := advance s.cfg.qcap s.q.wi })) := by
  unfold pushByte
  cases hq : qFull s
  · simp only [Bool.false_eq_true, ↓reduceIte, false_and, true_and, false_or]
    cases hw : memWrite s.q.wi b s with
    | error f =>
      have : ¬ s.q.wi < s.cfg.qcap := by
        intro h
        have := (memWrite_ok (i := s.q.wi) (v := b) (s := s)).mpr ⟨h, rfl⟩
        rw [hw] at this
        cases this
      simp [Except.map, this]
    | ok t =>
      obtain ⟨hlt, rfl⟩ := memWrite_ok.mp hw
      simp [Except.map, hlt, eq_comm]
  · simp [eq_comm]

/-- Everything a pop can do: nothing on an empty queue, or answer the oldest byte and advance the read index. -/
theorem popByte_ok {s : State} {r : Option Byte × State} :
    popByte s = .ok r ↔
      (qEmpty s = true ∧ r = (none, s)) ∨
      (qEmpty s = false ∧ s.q.ri < s.cfg.qcap ∧ ∃ b, memGet s.q.mem s.q.ri = some b ∧
        r = (some b, s.withQ { s.q with ri := advance s.cfg.qcap s.q.ri })) := by
  unfold popByte
  cases hq : qEmpty s
  · simp only [Bool.false_eq_true, ↓reduceIte, false_and, true_and, false_or]
    cases hr : memRead s.q.ri s with
    | error f =>
      have : ¬ (s.q.ri < s.cfg.qcap ∧ ∃ b, memGet s.q.mem s.q.ri = some b) := by
        rintro ⟨h, b, hb⟩
        have := (memRead_ok (i := s.q.ri) (s := s)).mpr ⟨h, hb⟩
        rw [hr] at this
        cases this
      simp only [Except.map, reduceCtorEq, false_iff, not_and, not_exists]
      exact fun h b hb => absurd ⟨h, b, hb⟩ this
    | ok b =>
      obtain ⟨hlt, hb⟩ := memRead_ok.mp hr
      simp [Except.map, hlt, hb, eq_comm]
  · simp [eq_comm]

end Sys2Proof.Machine
end

