-- ==== Sys2Proof/Laws/Tracker.lean ====
section
/-! SUPPORT. The tracker's operations: what each can do, and that each keeps the invariant of 10_state.md R43. -/

namespace Sys2Proof.Machine

theorem isHeld_iff {n : Data7} {t : Tracker} : isHeld n t = true ↔ n ∈ t.held.map Held.note := by
  simp [isHeld]

@[simp] theorem soundingNote_append (l : List Held) (h : Held) (v : Data7) :
    soundingNote { held := l ++ [h], latched := v } = h.note := by
  simp [soundingNote]

@[simp] theorem soundingNote_nil (v : Data7) : soundingNote { held := [], latched := v } = v := rfl

/-- A note-on does one of two things: nothing, for a duplicate or at capacity, or append the note and latch it. -/
theorem trackerNoteOn_cases (cap : Nat) (n v : Data7) (t : Tracker) :
    ((isHeld n t = true ∨ heldCount t = cap) ∧ trackerNoteOn cap n v t = t) ∨
    (isHeld n t = false ∧ heldCount t ≠ cap ∧
      trackerNoteOn cap n v t = { held := t.held ++ [{ note := n, vel := v }], latched := n }) := by
  unfold trackerNoteOn
  cases hh : isHeld n t
  · by_cases hc : heldCount t = cap <;> simp [hc]
  · simp

/-- While the invariant holds, the sounding note is the latched note (10_state.md R44). -/
theorem soundingNote_eq_latched {cap : Nat} {t : Tracker} (h : TrackerInv cap t) : soundingNote t = t.latched := by
  by_cases hn : t.held = []
  · simp [soundingNote, hn]
  · exact (h.latched_eq hn).symm

theorem trackerNoteOn_inv {cap : Nat} {t : Tracker} (n v : Data7) (h : TrackerInv cap t) :
    TrackerInv cap (trackerNoteOn cap n v t) := by
  obtain ⟨-, heq⟩ | ⟨hh, hc, heq⟩ := trackerNoteOn_cases cap n v t
  · rwa [heq]
  · rw [heq]
    have hmem : n ∉ t.held.map Held.note := by
      rw [← isHeld_iff]
      simp [hh]
    have hle := h.count_le
    refine ⟨?_, ?_, ?_⟩
    · simp only [heldCount, List.length_append, List.length_singleton] at *
      omega
    · rw [List.map_append, List.nodup_append]
      refine ⟨h.distinct, by simp, ?_⟩
      rintro a ha b hb rfl
      simp only [List.map_cons, List.map_nil, List.mem_singleton] at hb
      exact hmem (hb ▸ ha)
    · intro _
      simp

/-- A note-off of an absent note does nothing (42_note_tracker.md R172). -/
theorem trackerNoteOff_absent {n : Data7} {t : Tracker} (h : isHeld n t = false) : trackerNoteOff n t = t := by
  simp [trackerNoteOff, h]

theorem trackerNoteOff_present {n : Data7} {t : Tracker} (h : isHeld n t = true) :
    trackerNoteOff n t =
      { held := t.held.eraseP (fun x => x.note == n),
        latched := soundingNote { held := t.held.eraseP (fun x => x.note == n), latched := t.latched } } := by
  simp [trackerNoteOff, h]

theorem trackerNoteOff_inv {cap : Nat} {t : Tracker} (n : Data7) (h : TrackerInv cap t) :
    TrackerInv cap (trackerNoteOff n t) := by
  cases hh : isHeld n t
  · rwa [trackerNoteOff_absent hh]
  · rw [trackerNoteOff_present hh]
    have hsub : (t.held.eraseP (fun x => x.note == n)).Sublist t.held := List.eraseP_sublist
    refine ⟨Nat.le_trans hsub.length_le h.count_le, h.distinct.sublist (hsub.map _), ?_⟩
    intro hne
    simp only [soundingNote]
    cases hl : (t.held.eraseP (fun x => x.note == n)).getLast? with
    | none => exact absurd (List.getLast?_eq_none_iff.mp hl) hne
    | some x => rfl

theorem trackerReset_inv (p : Params) : TrackerInv p.trkCap (trackerReset p) :=
  ⟨by simp [trackerReset, heldCount], by simp [trackerReset], by simp [trackerReset]⟩

theorem gate_eq_true {s : State} : gate s = true ↔ s.t.held ≠ [] := by
  simp [gate, heldCount, List.length_pos_iff]

theorem gate_eq_false {s : State} : gate s = false ↔ s.t.held = [] := by
  rw [← Bool.not_eq_true, gate_eq_true, not_not]

end Sys2Proof.Machine
end

