-- ==== Sys2Proof/Laws/Decoder.lean ====
section
/-! SUPPORT. Delivery, dispatch and the byte sequencer: what each leaves alone, and that each keeps the invariants of
10_state.md R36, R43 and R47. -/

namespace Sys2Proof.Machine

/-- Everything delivery can do (41_message_decoder.md R150): nothing, one event appended, or one tracker operation. -/
theorem deliver_cases (ev : Event) (s : State) :
    deliver ev s = s ∨
    (targetFor s.d.cb (eventKind ev) = .host ∧ deliver ev s = s.withEvents (s.events ++ [ev])) ∨
    (∃ n v, deliver ev s = s.withT (trackerNoteOn s.cfg.trkCap n v s.t)) ∨
    (∃ n, deliver ev s = s.withT (trackerNoteOff n s.t)) := by
  unfold deliver
  split
  · exact .inl rfl
  · rename_i h
    exact .inr (.inl ⟨h, rfl⟩)
  · cases ev with
    | noteOn n v c => exact .inr (.inr (.inl ⟨n, v, rfl⟩))
    | noteOff n v c => exact .inr (.inr (.inr ⟨n, rfl⟩))
    | controlChange n v c => exact .inl rfl
    | pitchBend v c => exact .inl rfl
    | realTime st => exact .inl rfl

/-- What delivery changes is the tracker or the event log, nothing else. -/
theorem deliver_frame (ev : Event) (s : State) : deliver ev s = (s.withT (deliver ev s).t).withEvents (deliver ev s).events := by
  obtain h | ⟨-, h⟩ | ⟨n, v, h⟩ | ⟨n, h⟩ := deliver_cases ev s <;> rw [h] <;> rfl

/-- Everything dispatch can do: nothing, or deliver the message's event. -/
theorem dispatch_cases (st : Byte) (d1 d2 : Data7) (s : State) :
    dispatch st d1 d2 s = s ∨
    (passesFilter st s.d = true ∧ ∃ ev, messageEvent st d1 d2 = some ev ∧ dispatch st d1 d2 s = deliver ev s) := by
  unfold dispatch
  split
  · rename_i hp
    split
    · rename_i ev hev
      exact .inr ⟨hp, ev, hev, rfl⟩
    · exact .inl rfl
  · exact .inl rfl

theorem dispatch_frame (st : Byte) (d1 d2 : Data7) (s : State) :
    dispatch st d1 d2 s = (s.withT (dispatch st d1 d2 s).t).withEvents (dispatch st d1 d2 s).events := by
  obtain h | ⟨-, ev, -, h⟩ := dispatch_cases st d1 d2 s
  · rw [h]
    rfl
  · rw [h]
    exact deliver_frame ev s

theorem realtimeByte_frame (b : Byte) (s : State) :
    realtimeByte b s = ((s.withD (realtimeByte b s).d).withT (realtimeByte b s).t).withEvents (realtimeByte b s).events := by
  unfold realtimeByte
  have h := deliver_frame (.realTime b) s
  generalize deliver (.realTime b) s = x at *
  rw [h]
  rfl

theorem dispatch_withD_frame (st : Byte) (d1 d2 : Data7) (d : Decoder) (s : State) :
    dispatch st d1 d2 (s.withD d) =
      ((s.withD (dispatch st d1 d2 (s.withD d)).d).withT (dispatch st d1 d2 (s.withD d)).t).withEvents
        (dispatch st d1 d2 (s.withD d)).events := by
  have h := dispatch_frame st d1 d2 (s.withD d)
  generalize dispatch st d1 d2 (s.withD d) = x at *
  rw [h]
  rfl

theorem statusByte_frame (b : Byte) (s : State) :
    statusByte b s = ((s.withD (statusByte b s).d).withT (statusByte b s).t).withEvents (statusByte b s).events := by
  unfold statusByte
  simp only
  split
  · exact dispatch_withD_frame _ _ _ _ _
  · rfl

theorem dataByte_frame (b : Data7) (s : State) :
    dataByte b s = ((s.withD (dataByte b s).d).withT (dataByte b s).t).withEvents (dataByte b s).events := by
  unfold dataByte
  split
  · split
    · rfl
    · split <;> rfl
  · split
    · exact dispatch_withD_frame _ _ _ _ _
    · rfl
  · exact dispatch_withD_frame _ _ _ _ _

/-- A byte fed changes the decoder, the tracker and the event log, nothing else. -/
theorem feedByte_frame (b : Byte) (s : State) :
    feedByte b s = ((s.withD (feedByte b s).d).withT (feedByte b s).t).withEvents (feedByte b s).events := by
  unfold feedByte
  split
  · exact realtimeByte_frame b s
  · split
    · rfl
    · split
      · exact statusByte_frame b s
      · exact dataByte_frame _ s

@[simp] theorem feedByte_cfg (b : Byte) (s : State) : (feedByte b s).cfg = s.cfg := by
  rw [feedByte_frame]; rfl
@[simp] theorem feedByte_q (b : Byte) (s : State) : (feedByte b s).q = s.q := by
  rw [feedByte_frame]; rfl
@[simp] theorem feedByte_busy (b : Byte) (s : State) : (feedByte b s).busy = s.busy := by
  rw [feedByte_frame]; rfl
@[simp] theorem feedByte_fault (b : Byte) (s : State) : (feedByte b s).fault = s.fault := by
  rw [feedByte_frame]; rfl
@[simp] theorem feedByte_portP (b : Byte) (s : State) : (feedByte b s).portP = s.portP := by
  rw [feedByte_frame]; rfl
@[simp] theorem feedByte_portC (b : Byte) (s : State) : (feedByte b s).portC = s.portC := by
  rw [feedByte_frame]; rfl
@[simp] theorem feedByte_turns (b : Byte) (s : State) : (feedByte b s).turns = s.turns := by
  rw [feedByte_frame]; rfl
@[simp] theorem feedByte_issuer (b : Byte) (s : State) : (feedByte b s).issuer = s.issuer := by
  rw [feedByte_frame]; rfl

@[simp] theorem dispatch_cfg (st : Byte) (d1 d2 : Data7) (s : State) : (dispatch st d1 d2 s).cfg = s.cfg := by
  rw [dispatch_frame]; rfl
@[simp] theorem dispatch_d (st : Byte) (d1 d2 : Data7) (s : State) : (dispatch st d1 d2 s).d = s.d := by
  rw [dispatch_frame]; rfl
@[simp] theorem deliver_d (ev : Event) (s : State) : (deliver ev s).d = s.d := by
  rw [deliver_frame]; rfl
@[simp] theorem deliver_cfg (ev : Event) (s : State) : (deliver ev s).cfg = s.cfg := by
  rw [deliver_frame]; rfl

theorem deliver_tracker_inv {ev : Event} {s : State} (h : TrackerInv s.cfg.trkCap s.t) :
    TrackerInv s.cfg.trkCap (deliver ev s).t := by
  obtain e | ⟨-, e⟩ | ⟨n, v, e⟩ | ⟨n, e⟩ := deliver_cases ev s <;> rw [e]
  · exact h
  · exact h
  · exact trackerNoteOn_inv n v h
  · exact trackerNoteOff_inv n h

theorem deliver_events_ok {ev : Event} {s : State} (hev : eventOk ev = true)
    (h : ∀ e ∈ s.events, eventOk e = true) : ∀ e ∈ (deliver ev s).events, eventOk e = true := by
  obtain e | ⟨-, e⟩ | ⟨n, v, e⟩ | ⟨n, e⟩ := deliver_cases ev s <;> rw [e]
  · exact h
  · intro e he
    simp only [State.withEvents_events, List.mem_append, List.mem_singleton] at he
    obtain he | rfl := he
    · exact h e he
    · exact hev
  · exact h
  · exact h

theorem statusChannel_range (st : Byte) : 1 ≤ (statusChannel st).toNat ∧ (statusChannel st).toNat ≤ 16 := by
  unfold statusChannel
  have := (st.extractLsb' 0 4).isLt
  simp only [BitVec.toNat_add, BitVec.toNat_setWidth, BitVec.toNat_ofNat]
  omega

theorem bendValue_eq (d1 d2 : Data7) : bendValue d1 d2 = (d2.toNat * 128 + d1.toNat : Nat) - 8192 := by
  unfold bendValue
  have h1 := d1.isLt
  have h2 := d2.isLt
  have : ((BitVec.setWidth 14 d2 <<< 7) ||| BitVec.setWidth 14 d1).toNat = d2.toNat * 128 + d1.toNat := by
    rw [BitVec.toNat_or, BitVec.toNat_shiftLeft, BitVec.toNat_setWidth, BitVec.toNat_setWidth,
      Nat.mod_eq_of_lt (by omega : d2.toNat < 2 ^ 14), Nat.mod_eq_of_lt (by omega : d1.toNat < 2 ^ 14),
      Nat.shiftLeft_eq, Nat.mod_eq_of_lt (by omega : d2.toNat * 2 ^ 7 < 2 ^ 14), Nat.mul_comm,
      ← Nat.two_pow_add_eq_or_of_lt (by omega : d1.toNat < 2 ^ 7)]
    omega
  rw [this]

theorem bendValue_range (d1 d2 : Data7) : -8192 ≤ bendValue d1 d2 ∧ bendValue d1 d2 ≤ 8191 := by
  rw [bendValue_eq]
  have h1 := d1.isLt
  have h2 := d2.isLt
  omega

theorem messageEvent_ok {st : Byte} {d1 d2 : Data7} {ev : Event} (h : messageEvent st d1 d2 = some ev) :
    eventOk ev = true := by
  have hc := statusChannel_range st
  have hb := bendValue_range d1 d2
  unfold messageEvent at h
  split at h
  · cases h
    simpa [eventOk] using hc
  · split at h
    · split at h <;> cases h <;> simpa [eventOk] using hc
    · split at h
      · cases h
        simpa [eventOk] using hc
      · split at h
        · cases h
          simp [eventOk, hc, hb]
        · cases h

theorem dispatch_tracker_inv {st : Byte} {d1 d2 : Data7} {s : State} (h : TrackerInv s.cfg.trkCap s.t) :
    TrackerInv s.cfg.trkCap (dispatch st d1 d2 s).t := by
  obtain e | ⟨-, ev, -, e⟩ := dispatch_cases st d1 d2 s <;> rw [e]
  · exact h
  · exact deliver_tracker_inv h

theorem dispatch_events_ok {st : Byte} {d1 d2 : Data7} {s : State} (h : ∀ e ∈ s.events, eventOk e = true) :
    ∀ e ∈ (dispatch st d1 d2 s).events, eventOk e = true := by
  obtain e | ⟨-, ev, hev, e⟩ := dispatch_cases st d1 d2 s <;> rw [e]
  · exact h
  · exact deliver_events_ok (messageEvent_ok hev) h

theorem parserClear_inv {d : Decoder} (h : DecoderInv d) : DecoderInv (parserClear d) :=
  ⟨h.rs_ok, .inl rfl, .inl rfl, fun hn => absurd rfl hn, h.chan_ok, h.cb_ok⟩

theorem decoderReset_inv {d : Decoder} (h : DecoderInv d) : DecoderInv (decoderReset d) :=
  ⟨.inl rfl, .inl rfl, .inl rfl, fun hn => absurd rfl hn, h.chan_ok, h.cb_ok⟩

theorem expectedCount_cases (st : Byte) : expectedCount st = 2#2 ∨ expectedCount st = 0#2 := by
  unfold expectedCount
  split
  · exact .inl rfl
  · exact .inr rfl

theorem statusKind_toNat (st : Byte) : (statusKind st).toNat = st.toNat / 16 := by
  have := st.isLt
  simp only [statusKind, BitVec.extractLsb'_toNat, Nat.shiftRight_eq_div_pow]
  omega

theorem statusChannel_toNat (st : Byte) : (statusChannel st).toNat = st.toNat % 16 + 1 := by
  have := st.isLt
  simp only [statusChannel, BitVec.toNat_add, BitVec.toNat_setWidth, BitVec.extractLsb'_toNat,
    Nat.shiftRight_zero, BitVec.toNat_ofNat]
  omega

/-- A channel status byte is fed by the status rule, whatever the parse state. -/
theorem feedByte_status {st : Byte} (h : isChannelStatus st = true) (s : State) : feedByte st s = statusByte st s := by
  have k : ∀ b : Byte, isChannelStatus b = true → ¬ 0xF8#8 ≤ b ∧ ¬ 0xF0#8 ≤ b ∧ b.extractLsb' 7 1 = 1#1 := by
    set_option maxRecDepth 100000 in decide
  obtain ⟨h1, h2, h3⟩ := k st h
  unfold feedByte
  rw [if_neg h1, if_neg h2, if_pos h3]

/-- A byte below 0x80 is fed by the data rule. -/
theorem feedByte_data (b : Data7) (s : State) : feedByte (0#1 ++ b) s = dataByte b s := by
  have k : ∀ b : Data7, ¬ 0xF8#8 ≤ (0#1 ++ b : BitVec 8) ∧ ¬ 0xF0#8 ≤ (0#1 ++ b : BitVec 8) ∧
      ¬ (0#1 ++ b : BitVec 8).extractLsb' 7 1 = 1#1 ∧ dataValue (0#1 ++ b) = b := by decide
  obtain ⟨h1, h2, h3, h4⟩ := k b
  unfold feedByte
  rw [if_neg h1, if_neg h2, if_neg h3, h4]

end Sys2Proof.Machine
end

