-- ==== Sys2Proof/Laws/Encoding.lean ====
section
/-! SUPPORT. The fields of a command word and of an event word, and that the opcode map and the encoder agree row by row. -/

namespace Sys2Proof

theorem opField_toNat (w : CmdWord) : (opField w).toNat = w.toNat / 65536 := by
  simp only [opField, BitVec.extractLsb'_toNat, Nat.shiftRight_eq_div_pow]
  have := w.isLt
  omega

theorem aField_toNat (w : CmdWord) : (aField w).toNat = w.toNat / 256 % 256 := by
  simp only [aField, BitVec.extractLsb'_toNat, Nat.shiftRight_eq_div_pow]

theorem bField_toNat (w : CmdWord) : (bField w).toNat = w.toNat % 256 := by
  simp [bField, BitVec.extractLsb'_toNat]

theorem cmdOf_toNat (op a b : Byte) : (cmdOf op a b).toNat = op.toNat * 65536 + a.toNat * 256 + b.toNat := by
  have h1 := op.isLt
  have h2 := a.isLt
  have h3 := b.isLt
  simp only [cmdOf, BitVec.toNat_ofNat]
  omega

@[simp] theorem opField_cmdOf (op a b : Byte) : opField (cmdOf op a b) = op := by
  apply BitVec.eq_of_toNat_eq
  rw [opField_toNat, cmdOf_toNat]
  have h2 := a.isLt
  have h3 := b.isLt
  omega

@[simp] theorem aField_cmdOf (op a b : Byte) : aField (cmdOf op a b) = a := by
  apply BitVec.eq_of_toNat_eq
  rw [aField_toNat, cmdOf_toNat]
  have h2 := a.isLt
  have h3 := b.isLt
  omega

@[simp] theorem bField_cmdOf (op a b : Byte) : bField (cmdOf op a b) = b := by
  apply BitVec.eq_of_toNat_eq
  rw [bField_toNat, cmdOf_toNat]
  have h3 := b.isLt
  omega

theorem cmdOf_fields (w : CmdWord) : cmdOf (opField w) (aField w) (bField w) = w := by
  apply BitVec.eq_of_toNat_eq
  rw [cmdOf_toNat, opField_toNat, aField_toNat, bField_toNat]
  have := w.isLt
  omega

/-- Every row of the opcode map is the encoding of the instructions it gives, operands in the fields it reads. -/
theorem opcodeMap_encodes {op : Byte} {r : RowShape} (h : opcodeMap op = some r) :
    (∃ i, r = .none i ∧ encode i = .cmd (cmdOf op 0#8 0#8)) ∨
    (∃ f, r = .a f ∧ ∀ a, encode (f a) = .cmd (cmdOf op a 0#8)) ∨
    (∃ f, r = .ab f ∧ ∀ a b, encode (f a b) = .cmd (cmdOf op a b)) := by
  have rows : ∀ row ∈ opcodeTable,
      (∃ i, row.2 = .none i ∧ encode i = .cmd (cmdOf row.1 0#8 0#8)) ∨
      (∃ f, row.2 = .a f ∧ ∀ a, encode (f a) = .cmd (cmdOf row.1 a 0#8)) ∨
      (∃ f, row.2 = .ab f ∧ ∀ a b, encode (f a b) = .cmd (cmdOf row.1 a b)) := by
    simp only [opcodeTable, List.forall_mem_cons]
    refine ⟨?_, ?_, ?_, ?_, ?_, ?_, ?_, ?_, ?_, ?_, ?_, ?_, ?_, ?_, ?_, ?_, ?_, ?_, ?_, ?_, ?_, by simp⟩ <;> first
      | exact .inl ⟨_, rfl, rfl⟩
      | exact .inr (.inl ⟨_, rfl, fun _ => rfl⟩)
      | exact .inr (.inr ⟨_, rfl, fun _ _ => rfl⟩)
  obtain ⟨row, hf, rfl⟩ := Option.map_eq_some_iff.mp h
  have hop : row.1 = op := by simpa using List.find?_some hf
  exact hop ▸ rows row (List.mem_of_find?_eq_some hf)

/-- An event word as a number (30_encoding.md R94). -/
theorem eventWord_toNat (ev : Machine.Event) :
    (Machine.eventWord ev).toNat = (Machine.kindCode (Machine.eventKind ev)).toNat * 2 ^ 24
      + (Machine.eventChannelField ev).toNat * 2 ^ 20 + (Machine.eventPayload ev).toNat := by
  have h1 := (Machine.kindCode (Machine.eventKind ev)).isLt
  have h2 := (Machine.eventChannelField ev).isLt
  have h3 := (Machine.eventPayload ev).isLt
  simp only [Machine.eventWord, BitVec.toNat_ofNat]
  omega

/-- The fields of an event word (30_encoding.md R94). -/
theorem eventWord_fields (ev : Machine.Event) :
    (Machine.eventWord ev).extractLsb' 24 3 = Machine.kindCode (Machine.eventKind ev) ∧
    (Machine.eventWord ev).extractLsb' 20 4 = Machine.eventChannelField ev ∧
    (Machine.eventWord ev).extractLsb' 14 6 = 0#6 ∧
    (Machine.eventWord ev).extractLsb' 0 14 = Machine.eventPayload ev := by
  have e := eventWord_toNat ev
  have h1 := (Machine.kindCode (Machine.eventKind ev)).isLt
  have h2 := (Machine.eventChannelField ev).isLt
  have h3 := (Machine.eventPayload ev).isLt
  generalize Machine.eventWord ev = w at *
  generalize Machine.kindCode (Machine.eventKind ev) = k at *
  generalize Machine.eventChannelField ev = c at *
  generalize Machine.eventPayload ev = p at *
  refine ⟨?_, ?_, ?_, ?_⟩ <;> apply BitVec.eq_of_toNat_eq <;>
    rw [BitVec.extractLsb'_toNat, Nat.shiftRight_eq_div_pow]
  · omega
  · omega
  · show _ = 0
    omega
  · omega

/-- A command that decodes is no input byte. -/
theorem decodeCmd_not_byte {w : CmdWord} {i : Instr} (h : decodeCmd w = .ok i) :
    Sys2Proof.Machine.isInputByte i = false := by
  unfold decodeCmd at h
  cases hm : opcodeMap (opField w) with
  | none => simp [hm] at h
  | some r =>
    simp only [hm] at h
    obtain ⟨j, rfl, hj⟩ | ⟨f, rfl, hf⟩ | ⟨f, rfl, hf⟩ := opcodeMap_encodes hm
    · simp only at h
      split at h
      · cases h
        simp [Sys2Proof.Machine.isInputByte, hj]
      · cases h
    · simp only at h
      split at h
      · cases h
        simp [Sys2Proof.Machine.isInputByte, hf]
      · cases h
    · cases h
      simp [Sys2Proof.Machine.isInputByte, hf]

/-- The machine's range check is the well-formedness of 30_encoding.md R90. -/
theorem operandsInRange_eq_wellFormed (i : Instr) : Sys2Proof.Machine.operandsInRange i = i.wellFormed := by
  cases i with
  | decSetChannel a =>
    revert a
    set_option maxRecDepth 20000 in decide
  | decSetOmni a =>
    revert a
    set_option maxRecDepth 20000 in decide
  | trkNoteOff a =>
    revert a
    set_option maxRecDepth 20000 in decide
  | trkNoteOn a b =>
    simp only [Sys2Proof.Machine.operandsInRange, Instr.wellFormed, BitVec.lt_def, BitVec.toNat_ofNat]
    rw [Bool.eq_iff_iff]
    simp
  | decSetCallback a b =>
    have h0 : (a == 0#8) = decide (a.toNat = 0) := by
      rw [Bool.eq_iff_iff]
      simp [← BitVec.toNat_inj]
    have h1 : (a == 1#8) = decide (a.toNat = 1) := by
      rw [Bool.eq_iff_iff]
      simp [← BitVec.toNat_inj]
    have h2 : (b == 2#8) = decide (b.toNat = 2) := by
      rw [Bool.eq_iff_iff]
      simp [← BitVec.toNat_inj]
    rw [Bool.eq_iff_iff]
    simp only [Sys2Proof.Machine.operandsInRange, Instr.wellFormed, BitVec.lt_def, h0, h1, h2]
    simp
    omega
  | _ => rfl

end Sys2Proof
end

