-- ==== Sys2Proof/Laws/Exec.lean ====
section
/-! SUPPORT. Every instruction as one of two shapes: a command's own effect inside the common checks, or an input byte's
effect. A proof over all instructions goes through these, not through the 31 meanings. -/

namespace Sys2Proof.Machine

/-- The own effect of an input byte of each class; a command has none. -/
def feedOf : Instr → State → State
  | .midiRealtime r => realtimeByte (0b11111#5 ++ r)
  | .midiSysCommon _ => syscommonByte
  | .midiNoteOff c => statusByte (statusOf 0x8#4 c)
  | .midiNoteOn c => statusByte (statusOf 0x9#4 c)
  | .midiStatusA c => statusByte (statusOf 0xA#4 c)
  | .midiControlChange c => statusByte (statusOf 0xB#4 c)
  | .midiStatusC c => statusByte (statusOf 0xC#4 c)
  | .midiStatusD c => statusByte (statusOf 0xD#4 c)
  | .midiPitchBend c => statusByte (statusOf 0xE#4 c)
  | .midiData d => dataByte d
  | .qInit => id
  | .qPush _ => id
  | .qPop => id
  | .qPeek => id
  | .qIsFull => id
  | .qIsEmpty => id
  | .decFeed _ => id
  | .decReset => id
  | .decSetChannel _ => id
  | .decSetOmni _ => id
  | .decGetChannel => id
  | .decGetOmni => id
  | .decSetCallback _ _ => id
  | .trkNoteOn _ _ => id
  | .trkNoteOff _ => id
  | .trkHeldCount => id
  | .trkSoundingNote => id
  | .trkReset => id
  | .topUpdate => id
  | .topRxError => id
  | .topGetGate => id

/-- The own effect of each command, after its checks; an input byte has none. -/
def bodyOf : Instr → State → Except Fault State
  | .qInit => fun s => .ok (respond respNone (s.withQ { s.q with wi := 0, ri := 0 }))
  | .qPush a => fun s => (pushByte a s).map (fun r => respond (respBool r.1) r.2)
  | .qPop => fun s => (popByte s).map (fun r => respond (respOpt r.1) r.2)
  | .qPeek => fun s =>
      if qEmpty s then .ok (respond (respOpt none) s)
      else (memRead s.q.ri s).map (fun b => respond (respOpt (some b)) s)
  | .qIsFull => fun s => .ok (respond (respBool (qFull s)) s)
  | .qIsEmpty => fun s => .ok (respond (respBool (qEmpty s)) s)
  | .decFeed a => fun s => .ok (respond respNone (feedByte a s))
  | .decReset => fun s => .ok (respond respNone (s.withD (decoderReset s.d)))
  | .decSetChannel a => fun s => .ok (respond respNone (s.withD { s.d with chan := operandChannel a }))
  | .decSetOmni a => fun s => .ok (respond respNone (s.withD { s.d with omni := a == 1#8 }))
  | .decGetChannel => fun s => .ok (respond (respU8 (s.d.chan.setWidth 8)) s)
  | .decGetOmni => fun s => .ok (respond (respBool s.d.omni) s)
  | .decSetCallback a b => fun s => .ok (respond respNone (s.withD (setCallback a b s.d)))
  | .trkNoteOn a b => fun s =>
      .ok (respond respNone (s.withT (trackerNoteOn s.cfg.trkCap (operandData a) (operandData b) s.t)))
  | .trkNoteOff a => fun s => .ok (respond respNone (s.withT (trackerNoteOff (operandData a) s.t)))
  | .trkHeldCount => fun s => .ok (respond (respU8 (BitVec.ofNat 8 (heldCount s.t))) s)
  | .trkSoundingNote => fun s => .ok (respond (respU8 ((soundingNote s.t).setWidth 8)) s)
  | .trkReset => fun s => .ok (respond respNone (s.withT (trackerReset s.cfg)))
  | .topUpdate => drainStep
  | .topRxError => fun s => .ok (respond respNone
      (if s.cfg.errResetsTracker then (s.withD (decoderReset s.d)).withT (trackerReset s.cfg)
       else s.withD (decoderReset s.d)))
  | .topGetGate => fun s => .ok (respond (respBool (gate s)) s)
  | .midiRealtime _ => fun s => .ok s
  | .midiSysCommon _ => fun s => .ok s
  | .midiNoteOff _ => fun s => .ok s
  | .midiNoteOn _ => fun s => .ok s
  | .midiStatusA _ => fun s => .ok s
  | .midiControlChange _ => fun s => .ok s
  | .midiStatusC _ => fun s => .ok s
  | .midiStatusD _ => fun s => .ok s
  | .midiPitchBend _ => fun s => .ok s
  | .midiData _ => fun s => .ok s

/-- An input byte's execution is its class's effect, where no fault is recorded. -/
theorem exec_inputByte {i : Instr} (s : State) (h : isInputByte i = true) :
    exec i s = inputByte (feedOf i) s := by
  cases i <;> first | rfl | cases h

/-- A command's execution is its own effect inside the common checks. -/
theorem exec_command {i : Instr} (s : State) (h : isInputByte i = false) :
    exec i s = command i (bodyOf i) s := by
  cases i <;> first | rfl | cases h

/-- A command whose checks pass answers what its own effect answers. -/
theorem exec_of_body {i : Instr} {s t : State} (hb : isInputByte i = false) (hf : s.fault = none)
    (ha : admits s.cfg s.issuer i = true) (hw : i.wellFormed = true) (h : bodyOf i s = .ok t) :
    exec i s = .next t := by
  rw [exec_command s hb, command_next, operandsInRange_eq_wellFormed]
  exact ⟨hf, .inl ⟨ha, hw, h⟩⟩

/-- Everything an instruction can do when it answers a next state. -/
theorem exec_next {i : Instr} {s t : State} (h : exec i s = .next t) :
    s.fault = none ∧
      ((isInputByte i = true ∧ t = feedOf i s) ∨
       (isInputByte i = false ∧ admits s.cfg s.issuer i = true ∧ operandsInRange i = true ∧ bodyOf i s = .ok t) ∨
       (isInputByte i = false ∧ ∃ r, t = raiseFault r (commandWord i) s)) := by
  cases hb : isInputByte i
  · rw [exec_command s hb] at h
    obtain ⟨hf, ⟨ha, ho, hbody⟩ | ⟨-, -, rfl⟩ | ⟨-, rfl⟩⟩ := command_next.mp h
    · exact ⟨hf, .inr (.inl ⟨rfl, ha, ho, hbody⟩)⟩
    · exact ⟨hf, .inr (.inr ⟨rfl, _, rfl⟩)⟩
    · exact ⟨hf, .inr (.inr ⟨rfl, _, rfl⟩)⟩
  · rw [exec_inputByte s hb] at h
    obtain ⟨hf, rfl⟩ := inputByte_next.mp h
    exact ⟨hf, .inl ⟨rfl, rfl⟩⟩

/-- Every drain step either pops and feeds the oldest byte, or ends the update on an empty queue. -/
theorem drainStep_ok {s t : State} :
    drainStep s = .ok t ↔
      (qEmpty s = true ∧ t = endUpdate s) ∨
      (qEmpty s = false ∧ s.q.ri < s.cfg.qcap ∧ ∃ b, memGet s.q.mem s.q.ri = some b ∧
        t = feedByte b ((s.withQ { s.q with ri := advance s.cfg.qcap s.q.ri }).withBusy true)) := by
  unfold drainStep
  cases hp : popByte s with
  | error f =>
    have hno : ¬ ∃ r, popByte s = .ok r := by simp [hp]
    simp only [Except.map, reduceCtorEq, false_iff, not_or]
    constructor
    · rintro ⟨he, -⟩
      exact hno ⟨_, popByte_ok.mpr (.inl ⟨he, rfl⟩)⟩
    · rintro ⟨he, hlt, b, hb, -⟩
      exact hno ⟨_, popByte_ok.mpr (.inr ⟨he, hlt, b, hb, rfl⟩)⟩
  | ok r =>
    obtain ⟨he, rfl⟩ | ⟨he, hlt, b, hb, rfl⟩ := popByte_ok.mp hp
    · simp [Except.map, he, eq_comm]
    · simp [Except.map, he, hlt, hb, eq_comm]

/-- A push drops its byte on a full queue, or writes and advances (40_byte_queue.md R101). -/
theorem bodyOf_qPush {a : Byte} {s t : State} :
    bodyOf (.qPush a) s = .ok t ↔
      (qFull s = true ∧ t = respond 0#16 s) ∨
      (qFull s = false ∧ s.q.wi < s.cfg.qcap ∧
        t = respond 1#16
          (s.withQ { s.q with mem := memSet s.q.mem s.q.wi a, wi := advance s.cfg.qcap s.q.wi })) := by
  change (pushByte a s).map _ = _ ↔ _
  cases hp : pushByte a s with
  | error f =>
    have hno : ¬ ∃ r, pushByte a s = .ok r := by simp [hp]
    simp only [Except.map, reduceCtorEq, false_iff, not_or]
    constructor
    · rintro ⟨he, -⟩
      exact hno ⟨_, pushByte_ok.mpr (.inl ⟨he, rfl⟩)⟩
    · rintro ⟨he, hlt, -⟩
      exact hno ⟨_, pushByte_ok.mpr (.inr ⟨he, hlt, rfl⟩)⟩
  | ok r =>
    obtain ⟨he, rfl⟩ | ⟨he, hlt, rfl⟩ := pushByte_ok.mp hp
    · simp [Except.map, he, respBool, eq_comm]
    · simp [Except.map, he, hlt, respBool, eq_comm]

/-- A pop answers nothing on an empty queue, or answers and removes the oldest byte (40_byte_queue.md R102). -/
theorem bodyOf_qPop {s t : State} :
    bodyOf .qPop s = .ok t ↔
      (qEmpty s = true ∧ t = respond 0#16 s) ∨
      (qEmpty s = false ∧ s.q.ri < s.cfg.qcap ∧ ∃ b, memGet s.q.mem s.q.ri = some b ∧
        t = respond (0x01#8 ++ b) (s.withQ { s.q with ri := advance s.cfg.qcap s.q.ri })) := by
  change (popByte s).map _ = _ ↔ _
  cases hp : popByte s with
  | error f =>
    have hno : ¬ ∃ r, popByte s = .ok r := by simp [hp]
    simp only [Except.map, reduceCtorEq, false_iff, not_or]
    constructor
    · rintro ⟨he, -⟩
      exact hno ⟨_, popByte_ok.mpr (.inl ⟨he, rfl⟩)⟩
    · rintro ⟨he, hlt, b, hb, -⟩
      exact hno ⟨_, popByte_ok.mpr (.inr ⟨he, hlt, b, hb, rfl⟩)⟩
  | ok r =>
    obtain ⟨he, rfl⟩ | ⟨he, hlt, b, hb, rfl⟩ := popByte_ok.mp hp
    · simp [Except.map, he, respOpt, eq_comm]
    · simp [Except.map, he, hlt, hb, respOpt, eq_comm]

/-- A peek answers the oldest byte and writes nothing (40_byte_queue.md R103). -/
theorem bodyOf_qPeek {s t : State} :
    bodyOf .qPeek s = .ok t ↔
      (qEmpty s = true ∧ t = respond 0#16 s) ∨
      (qEmpty s = false ∧ s.q.ri < s.cfg.qcap ∧ ∃ b, memGet s.q.mem s.q.ri = some b ∧
        t = respond (0x01#8 ++ b) s) := by
  change (if qEmpty s = true then _ else (memRead s.q.ri s).map _) = _ ↔ _
  cases he : qEmpty s
  · simp only [Bool.false_eq_true, if_false, false_and, true_and, false_or]
    cases hr : memRead s.q.ri s with
    | error f =>
      have hno : ¬ ∃ b, memRead s.q.ri s = .ok b := by simp [hr]
      simp only [Except.map, reduceCtorEq, false_iff]
      rintro ⟨hlt, b, hb, -⟩
      exact hno ⟨b, memRead_ok.mpr ⟨hlt, hb⟩⟩
    | ok b =>
      obtain ⟨hlt, hb⟩ := memRead_ok.mp hr
      simp [Except.map, hlt, hb, respOpt, eq_comm]
  · simp [respOpt, eq_comm]

/-- An input byte's effect changes the decoder, the tracker and the event log, nothing else. -/
theorem feedOf_frame (i : Instr) (s : State) :
    feedOf i s = ((s.withD (feedOf i s).d).withT (feedOf i s).t).withEvents (feedOf i s).events := by
  cases i with
  | midiRealtime r => exact realtimeByte_frame _ s
  | midiSysCommon k => rfl
  | midiNoteOff c => exact statusByte_frame _ s
  | midiNoteOn c => exact statusByte_frame _ s
  | midiStatusA c => exact statusByte_frame _ s
  | midiControlChange c => exact statusByte_frame _ s
  | midiStatusC c => exact statusByte_frame _ s
  | midiStatusD c => exact statusByte_frame _ s
  | midiPitchBend c => exact statusByte_frame _ s
  | midiData d => exact dataByte_frame _ s
  | _ => rfl

/-- What a command's own effect never changes: the parameters, the fault register, the turns, the issuer, and the
commands presented at either port. -/
theorem bodyOf_keeps {i : Instr} {s t : State} (h : bodyOf i s = .ok t) :
    t.cfg = s.cfg ∧ t.fault = s.fault ∧ t.turns = s.turns ∧ t.issuer = s.issuer ∧
      ∀ a, (t.port a).cmds = (s.port a).cmds := by
  cases i with
  | qPush a => obtain ⟨-, rfl⟩ | ⟨-, -, rfl⟩ := bodyOf_qPush.mp h <;> simp
  | qPop => obtain ⟨-, rfl⟩ | ⟨-, -, b, -, rfl⟩ := bodyOf_qPop.mp h <;> simp
  | qPeek => obtain ⟨-, rfl⟩ | ⟨-, -, b, -, rfl⟩ := bodyOf_qPeek.mp h <;> simp
  | topUpdate =>
    obtain ⟨-, rfl⟩ | ⟨-, -, b, -, rfl⟩ := drainStep_ok.mp h
    · simp [endUpdate]
    · refine ⟨by simp, by simp, by simp, by simp, ?_⟩
      intro a
      cases a <;> simp
  | decFeed b =>
    cases h
    refine ⟨by simp, by simp, by simp, by simp, ?_⟩
    intro a
    cases a <;> simp [-State.port_P, -State.port_C] <;> simp
  | topRxError =>
    cases h
    split <;> simp
  | _ =>
    cases h
    simp

end Sys2Proof.Machine
end

