-- ==== Sys2Proof/Laws/PerInstr.lean ====
section
/-! SUPPORT. Per instruction: the code the encoder gives is the row's match value of opcode_table.json plus the operands
in their fields. -/

namespace Sys2Proof.Laws.EncodesAsTable

/-- The number of a code. -/
def codeNumber : Code → Nat
  | .byte b => b.toNat
  | .cmd w => w.toNat

/-- The row's match value with the operands in the row's fields (30_encoding.md R81, R88; opcode_table.json). -/
def rowNumber : Instr → Nat
  | .midiRealtime r => 0xF8 + r.toNat
  | .midiSysCommon k => 0xF0 + k.toNat
  | .midiNoteOff c => 0x80 + c.toNat
  | .midiNoteOn c => 0x90 + c.toNat
  | .midiStatusA c => 0xA0 + c.toNat
  | .midiControlChange c => 0xB0 + c.toNat
  | .midiStatusC c => 0xC0 + c.toNat
  | .midiStatusD c => 0xD0 + c.toNat
  | .midiPitchBend c => 0xE0 + c.toNat
  | .midiData d => 0x00 + d.toNat
  | .qInit => 0x100000
  | .qPush a => 0x110000 + a.toNat * 256
  | .qPop => 0x120000
  | .qPeek => 0x130000
  | .qIsFull => 0x140000
  | .qIsEmpty => 0x150000
  | .decFeed a => 0x200000 + a.toNat * 256
  | .decReset => 0x210000
  | .decSetChannel a => 0x220000 + a.toNat * 256
  | .decSetOmni a => 0x230000 + a.toNat * 256
  | .decGetChannel => 0x240000
  | .decGetOmni => 0x250000
  | .decSetCallback a b => 0x260000 + a.toNat * 256 + b.toNat
  | .trkNoteOn a b => 0x300000 + a.toNat * 256 + b.toNat
  | .trkNoteOff a => 0x310000 + a.toNat * 256
  | .trkHeldCount => 0x320000
  | .trkSoundingNote => 0x330000
  | .trkReset => 0x340000
  | .topUpdate => 0x400000
  | .topRxError => 0x410000
  | .topGetGate => 0x420000

/-- The encoder agrees with the table. -/
def Statement (i : Instr) : Prop := codeNumber (encode i) = rowNumber i

theorem midiRealtime : ∀ r : BitVec 3, Statement (.midiRealtime r) := by
  unfold Statement
  decide
theorem midiSysCommon : ∀ k : BitVec 3, Statement (.midiSysCommon k) := by
  unfold Statement
  decide
theorem midiNoteOff : ∀ c : BitVec 4, Statement (.midiNoteOff c) := by
  unfold Statement
  decide
theorem midiNoteOn : ∀ c : BitVec 4, Statement (.midiNoteOn c) := by
  unfold Statement
  decide
theorem midiStatusA : ∀ c : BitVec 4, Statement (.midiStatusA c) := by
  unfold Statement
  decide
theorem midiControlChange : ∀ c : BitVec 4, Statement (.midiControlChange c) := by
  unfold Statement
  decide
theorem midiStatusC : ∀ c : BitVec 4, Statement (.midiStatusC c) := by
  unfold Statement
  decide
theorem midiStatusD : ∀ c : BitVec 4, Statement (.midiStatusD c) := by
  unfold Statement
  decide
theorem midiPitchBend : ∀ c : BitVec 4, Statement (.midiPitchBend c) := by
  unfold Statement
  decide
theorem midiData : ∀ d : Data7, Statement (.midiData d) := by
  unfold Statement
  decide
theorem qInit : Statement .qInit := rfl
theorem qPush (a : Byte) : Statement (.qPush a) := cmdOf_toNat _ a 0#8
theorem qPop : Statement .qPop := rfl
theorem qPeek : Statement .qPeek := rfl
theorem qIsFull : Statement .qIsFull := rfl
theorem qIsEmpty : Statement .qIsEmpty := rfl
theorem decFeed (a : Byte) : Statement (.decFeed a) := cmdOf_toNat _ a 0#8
theorem decReset : Statement .decReset := rfl
theorem decSetChannel (a : Byte) : Statement (.decSetChannel a) := cmdOf_toNat _ a 0#8
theorem decSetOmni (a : Byte) : Statement (.decSetOmni a) := cmdOf_toNat _ a 0#8
theorem decGetChannel : Statement .decGetChannel := rfl
theorem decGetOmni : Statement .decGetOmni := rfl
theorem decSetCallback (a b : Byte) : Statement (.decSetCallback a b) := cmdOf_toNat _ a b
theorem trkNoteOn (a b : Byte) : Statement (.trkNoteOn a b) := cmdOf_toNat _ a b
theorem trkNoteOff (a : Byte) : Statement (.trkNoteOff a) := cmdOf_toNat _ a 0#8
theorem trkHeldCount : Statement .trkHeldCount := rfl
theorem trkSoundingNote : Statement .trkSoundingNote := rfl
theorem trkReset : Statement .trkReset := rfl
theorem topUpdate : Statement .topUpdate := rfl
theorem topRxError : Statement .topRxError := rfl
theorem topGetGate : Statement .topGetGate := rfl

end Sys2Proof.Laws.EncodesAsTable
end

