-- ==== Sys2Proof/Laws/Queue.lean ====
section
/-! SUPPORT. The circular buffer's arithmetic: advancing an index, the occupancy, and the queued slots after a push and a
pop (10_state.md R24 to R26). -/

namespace Sys2Proof.Machine

theorem advance_lt {c i : Nat} (h : i < c) : advance c i < c := Nat.mod_lt _ (by omega)

theorem advance_eq {c i : Nat} (h : i < c) : advance c i = if i + 1 = c then 0 else i + 1 := by
  unfold advance
  split
  · rename_i h
    rw [h]
    exact Nat.mod_self c
  · exact Nat.mod_eq_of_lt (by omega)

theorem sub_emod_toNat {c w r : Nat} (hw : w < c) (hr : r < c) :
    (((w : Int) - (r : Int)) % (c : Int)).toNat = if r ≤ w then w - r else w + c - r := by
  split
  · rw [Int.emod_eq_of_lt (by omega) (by omega)]
    omega
  · rw [← Int.add_emod_right, Int.emod_eq_of_lt (by omega) (by omega)]
    omega

/-- The occupancy for indices in range (10_state.md R25). -/
theorem qCount_eq {s : State} (hw : s.q.wi < s.cfg.qcap) (hr : s.q.ri < s.cfg.qcap) :
    qCount s = if s.q.ri ≤ s.q.wi then s.q.wi - s.q.ri else s.q.wi + s.cfg.qcap - s.q.ri :=
  sub_emod_toNat hw hr

theorem add_mod_of_lt {c r k : Nat} (hr : r < c) (hk : k < c) :
    (r + k) % c = if r + k < c then r + k else r + k - c := by
  split
  · rename_i h
    exact Nat.mod_eq_of_lt h
  · obtain ⟨d, hd⟩ : ∃ d, r + k = d + c := ⟨r + k - c, by omega⟩
    rw [hd, Nat.add_mod_right, Nat.add_sub_cancel, Nat.mod_eq_of_lt (by omega)]

/-- A pop removes the first queued slot, the one at the read index. -/
theorem queuedSlots_pop {s : State} (hw : s.q.wi < s.cfg.qcap) (hr : s.q.ri < s.cfg.qcap) (hne : s.q.wi ≠ s.q.ri) :
    queuedSlots s = s.q.ri :: queuedSlots (s.withQ { s.q with ri := advance s.cfg.qcap s.q.ri }) := by
  have h3 : qCount s = qCount (s.withQ { s.q with ri := advance s.cfg.qcap s.q.ri }) + 1 := by
    have h1 := qCount_eq hw hr
    have h2 := sub_emod_toNat hw (advance_lt hr)
    have ha := advance_eq hr
    change _ = (((s.q.wi : Int) - (advance s.cfg.qcap s.q.ri : Int)) % (s.cfg.qcap : Int)).toNat + 1
    split at h1 <;> split at h2 <;> split at ha <;> omega
  unfold queuedSlots
  rw [h3, List.range_succ_eq_map, List.map_cons, List.map_map]
  congr 1
  · simp [Nat.mod_eq_of_lt hr]
  · apply List.map_congr_left
    intro k _
    simp only [Function.comp_apply, State.withQ_q, State.withQ_cfg, advance, Nat.mod_add_mod]
    congr 1
    omega

/-- A push adds the slot at the write index after the queued ones. -/
theorem queuedSlots_push {s : State} (m : Memory) (hw : s.q.wi < s.cfg.qcap) (hr : s.q.ri < s.cfg.qcap)
    (hne : advance s.cfg.qcap s.q.wi ≠ s.q.ri) :
    queuedSlots (s.withQ { s.q with mem := m, wi := advance s.cfg.qcap s.q.wi }) = queuedSlots s ++ [s.q.wi] := by
  have h1 := qCount_eq hw hr
  have h3 : qCount (s.withQ { s.q with mem := m, wi := advance s.cfg.qcap s.q.wi }) = qCount s + 1 := by
    have h2 := sub_emod_toNat (advance_lt hw) hr
    have ha := advance_eq hw
    change (((advance s.cfg.qcap s.q.wi : Int) - (s.q.ri : Int)) % (s.cfg.qcap : Int)).toNat = _
    split at h1 <;> split at h2 <;> split at ha <;> omega
  have h4 : (s.q.ri + qCount s) % s.cfg.qcap = s.q.wi := by
    have hk : qCount s < s.cfg.qcap := by split at h1 <;> omega
    have := add_mod_of_lt hr hk
    split at h1 <;> split at this <;> omega
  unfold queuedSlots
  rw [h3, List.range_succ, List.map_append]
  simp [h4]

/-- The slot at the write index is no queued slot. -/
theorem wi_not_queued {s : State} (hw : s.q.wi < s.cfg.qcap) (hr : s.q.ri < s.cfg.qcap) : s.q.wi ∉ queuedSlots s := by
  simp only [queuedSlots, List.mem_map, List.mem_range, not_exists, not_and]
  intro k hk he
  have h1 := qCount_eq hw hr
  have h2 := add_mod_of_lt hr (k := k) (by split at h1 <;> omega)
  split at h1 <;> split at h2 <;> omega

/-- On equal indices no slot is queued. -/
theorem queuedSlots_empty {s : State} (h : s.q.wi = s.q.ri) : queuedSlots s = [] := by
  simp [queuedSlots, qCount, h]

/-- While the queue is not empty, the slot at the read index is queued. -/
theorem ri_queued {s : State} (hw : s.q.wi < s.cfg.qcap) (hr : s.q.ri < s.cfg.qcap) (hne : s.q.wi ≠ s.q.ri) :
    s.q.ri ∈ queuedSlots s := by
  rw [queuedSlots_pop hw hr hne]
  exact List.mem_cons_self

/-- A queued slot holds a byte (10_state.md R26). -/
theorem queued_written {s : State} (h : QueueInv s) {i : Nat} (hi : i ∈ queuedSlots s) :
    ∃ b, memGet s.q.mem i = some b :=
  Option.isSome_iff_exists.mp (h.written i hi)

/-- While the queue is not empty, the slot at the read index holds a byte. -/
theorem oldest_written {s : State} (h : QueueInv s) (hne : s.q.wi ≠ s.q.ri) :
    ∃ b, memGet s.q.mem s.q.ri = some b :=
  queued_written h (ri_queued h.wi_lt h.ri_lt hne)

theorem queuedBytes_congr {s u : State} (hc : u.cfg = s.cfg) (hq : u.q = s.q) : queuedBytes u = queuedBytes s := by
  simp [queuedBytes, queuedSlots, qCount, hc, hq]

theorem queuedBytes_empty {s : State} (h : s.q.wi = s.q.ri) : queuedBytes s = [] := by
  simp [queuedBytes, queuedSlots_empty h]

theorem queuedBytes_length {s : State} (h : QueueInv s) : (queuedBytes s).length = qCount s := by
  have e : (queuedSlots s).filterMap (memGet s.q.mem) = (queuedSlots s).map (fun i => (memGet s.q.mem i).getD 0#8) := by
    rw [← List.filterMap_eq_map]
    apply List.filterMap_congr
    intro i hi
    obtain ⟨b, hb⟩ := queued_written h hi
    simp [hb]
  unfold queuedBytes
  rw [e]
  simp [queuedSlots]

theorem queuedBytes_pop {s : State} {b : Byte} (h : QueueInv s) (hne : s.q.wi ≠ s.q.ri)
    (hb : memGet s.q.mem s.q.ri = some b) :
    queuedBytes s = b :: queuedBytes (s.withQ { s.q with ri := advance s.cfg.qcap s.q.ri }) := by
  unfold queuedBytes
  rw [queuedSlots_pop h.wi_lt h.ri_lt hne]
  simp [hb]

theorem queuedBytes_push {s : State} (a : Byte) (h : QueueInv s) (hne : advance s.cfg.qcap s.q.wi ≠ s.q.ri) :
    queuedBytes (s.withQ { s.q with mem := memSet s.q.mem s.q.wi a, wi := advance s.cfg.qcap s.q.wi }) =
      queuedBytes s ++ [a] := by
  unfold queuedBytes
  rw [queuedSlots_push _ h.wi_lt h.ri_lt hne, List.filterMap_append]
  simp only [State.withQ_q, List.filterMap_cons, memGet_memSet_same, List.filterMap_nil, List.append_left_inj]
  apply List.filterMap_congr
  intro i hi
  exact memGet_memSet_other _ _ (fun e => wi_not_queued h.wi_lt h.ri_lt (e ▸ hi))

theorem QueueInv.pop {s : State} (h : QueueInv s) (hne : s.q.wi ≠ s.q.ri) :
    QueueInv (s.withQ { s.q with ri := advance s.cfg.qcap s.q.ri }) := by
  refine ⟨h.wi_lt, advance_lt h.ri_lt, h.wf, h.inRange, ?_⟩
  intro i hi
  exact h.written i (by rw [queuedSlots_pop h.wi_lt h.ri_lt hne]; exact List.mem_cons_of_mem _ hi)

theorem QueueInv.push {s : State} (a : Byte) (h : QueueInv s) (hne : advance s.cfg.qcap s.q.wi ≠ s.q.ri) :
    QueueInv (s.withQ { s.q with mem := memSet s.q.mem s.q.wi a, wi := advance s.cfg.qcap s.q.wi }) := by
  refine ⟨advance_lt h.wi_lt, h.ri_lt, memSet_wf _ _ h.wf,
    memSet_all (P := fun n => n < s.cfg.qcap) h.wi_lt h.inRange, ?_⟩
  intro i hi
  rw [queuedSlots_push _ h.wi_lt h.ri_lt hne] at hi
  simp only [List.mem_append, List.mem_singleton] at hi
  by_cases e : i = s.q.wi
  · subst e
    simp
  · rw [State.withQ_q, memGet_memSet_other _ _ e]
    exact h.written i (hi.resolve_right e)

end Sys2Proof.Machine
end

