-- ==== Sys2Proof/Laws/Step.lean ====
section
/-! SUPPORT. Everything one step can do, and everything that can stop it. -/

namespace Sys2Proof.Machine

/-- The state in which an agent's turn is taken. -/
def atTurn (a : Agent) (rest : List Agent) (s : State) : State := (s.withTurns rest).withIssuer a

/-- The state in which a presented command is executed: its word is no longer presented. -/
def taken (a : Agent) (ws : List CmdWord) (s : State) : State := s.withPort a { s.port a with cmds := ws }

@[simp] theorem atTurn_cfg (a : Agent) (rest : List Agent) (s : State) : (atTurn a rest s).cfg = s.cfg := rfl
@[simp] theorem atTurn_q (a : Agent) (rest : List Agent) (s : State) : (atTurn a rest s).q = s.q := rfl
@[simp] theorem atTurn_d (a : Agent) (rest : List Agent) (s : State) : (atTurn a rest s).d = s.d := rfl
@[simp] theorem atTurn_t (a : Agent) (rest : List Agent) (s : State) : (atTurn a rest s).t = s.t := rfl
@[simp] theorem atTurn_busy (a : Agent) (rest : List Agent) (s : State) : (atTurn a rest s).busy = s.busy := rfl
@[simp] theorem atTurn_fault (a : Agent) (rest : List Agent) (s : State) : (atTurn a rest s).fault = s.fault := rfl
@[simp] theorem atTurn_events (a : Agent) (rest : List Agent) (s : State) : (atTurn a rest s).events = s.events := rfl
@[simp] theorem atTurn_portP (a : Agent) (rest : List Agent) (s : State) : (atTurn a rest s).portP = s.portP := rfl
@[simp] theorem atTurn_portC (a : Agent) (rest : List Agent) (s : State) : (atTurn a rest s).portC = s.portC := rfl
@[simp] theorem atTurn_turns (a : Agent) (rest : List Agent) (s : State) : (atTurn a rest s).turns = rest := rfl
@[simp] theorem atTurn_issuer (a : Agent) (rest : List Agent) (s : State) : (atTurn a rest s).issuer = a := rfl

@[simp] theorem taken_cfg (a : Agent) (ws : List CmdWord) (s : State) : (taken a ws s).cfg = s.cfg := by
  cases a <;> rfl
@[simp] theorem taken_q (a : Agent) (ws : List CmdWord) (s : State) : (taken a ws s).q = s.q := by
  cases a <;> rfl
@[simp] theorem taken_d (a : Agent) (ws : List CmdWord) (s : State) : (taken a ws s).d = s.d := by
  cases a <;> rfl
@[simp] theorem taken_t (a : Agent) (ws : List CmdWord) (s : State) : (taken a ws s).t = s.t := by
  cases a <;> rfl
@[simp] theorem taken_busy (a : Agent) (ws : List CmdWord) (s : State) : (taken a ws s).busy = s.busy := by
  cases a <;> rfl
@[simp] theorem taken_fault (a : Agent) (ws : List CmdWord) (s : State) : (taken a ws s).fault = s.fault := by
  cases a <;> rfl
@[simp] theorem taken_events (a : Agent) (ws : List CmdWord) (s : State) : (taken a ws s).events = s.events := by
  cases a <;> rfl
@[simp] theorem taken_turns (a : Agent) (ws : List CmdWord) (s : State) : (taken a ws s).turns = s.turns := by
  cases a <;> rfl
@[simp] theorem taken_issuer (a : Agent) (ws : List CmdWord) (s : State) : (taken a ws s).issuer = s.issuer := by
  cases a <;> rfl
@[simp] theorem taken_port (a : Agent) (ws : List CmdWord) (s : State) :
    (taken a ws s).port a = { s.port a with cmds := ws } := by
  cases a <;> rfl

/-- What a turn of an agent answers as a step. -/
def turnResult (s : State) : Result :=
  match fetchTurn s with
  | .run i s' => exec i s'
  | .answer o => o

/-- A step that answers a next state took the turn of an agent, from legal parameters and with no fault recorded. -/
theorem step_next {s t : State} (h : step s = .next t) :
    s.cfg.legal = true ∧ s.fault = none ∧
      ∃ a rest, s.turns = a :: rest ∧ turnResult (atTurn a rest s) = .next t := by
  unfold step fetch at h
  cases hl : s.cfg.legal
  · simp [hl] at h
  · cases hf : s.fault with
    | some r => simp [hl, hf] at h
    | none =>
      cases he : runEnded s
      · cases ht : s.turns with
        | nil => simp [hl, hf, he, ht] at h
        | cons a rest =>
          simp only [hl, hf, he, ht, if_true, Bool.false_eq_true, if_false] at h
          exact ⟨rfl, rfl, a, rest, rfl, h⟩
      · simp [hl, hf, he] at h

/-- A step that stops in a fault took the turn of an agent that did, unless a fault was recorded before. -/
theorem step_fault {s : State} {f : Fault} (h : step s = .fault f) (hf : s.fault = none) :
    ∃ a rest, s.turns = a :: rest ∧ turnResult (atTurn a rest s) = .fault f := by
  unfold step fetch at h
  cases hl : s.cfg.legal
  · simp [hl] at h
  · cases he : runEnded s
    · cases ht : s.turns with
      | nil => simp [hl, hf, he, ht] at h
      | cons a rest =>
        simp only [hl, hf, he, ht, if_true, Bool.false_eq_true, if_false] at h
        exact ⟨a, rest, rfl, h⟩
    · simp [hl, hf, he] at h

/-- The step that takes a turn, where work is left. -/
theorem step_turn {s : State} {a : Agent} {rest : List Agent} (hl : s.cfg.legal = true) (hf : s.fault = none)
    (he : runEnded s = false) (ht : s.turns = a :: rest) : step s = turnResult (atTurn a rest s) := by
  unfold step fetch
  simp only [hl, hf, he, ht, if_true, Bool.false_eq_true, if_false]
  rfl

/-- Everything C's turn can do while an update is in progress. -/
theorem turnResult_drain {s : State} (hb : s.busy = true) (ha : s.issuer = .C) :
    (qEmpty s = true ∧ turnResult s = .next (endUpdate s)) ∨
    (qEmpty s = false ∧ s.q.ri < s.cfg.qcap ∧ ∃ b, memGet s.q.mem s.q.ri = some b ∧
      turnResult s = exec (decodeByte b) (s.withQ { s.q with ri := advance s.cfg.qcap s.q.ri })) ∨
    (qEmpty s = false ∧ ¬ (s.q.ri < s.cfg.qcap ∧ (memGet s.q.mem s.q.ri).isSome) ∧
      ∃ f, turnResult s = .fault f) := by
  have hd : fetchTurn s = fetchDrain s := by simp [fetchTurn, hb, ha]
  unfold turnResult
  rw [hd]
  unfold fetchDrain
  cases hp : popByte s with
  | ok r =>
    obtain ⟨he, rfl⟩ | ⟨he, hlt, b, hm, rfl⟩ := popByte_ok.mp hp
    · exact .inl ⟨he, rfl⟩
    · exact .inr (.inl ⟨he, hlt, b, hm, rfl⟩)
  | error f =>
    have hno : ¬ ∃ r, popByte s = .ok r := by simp [hp]
    cases he : qEmpty s
    · refine .inr (.inr ⟨rfl, ?_, f, rfl⟩)
      rintro ⟨hlt, hs⟩
      obtain ⟨b, hm⟩ := Option.isSome_iff_exists.mp hs
      exact hno ⟨_, popByte_ok.mpr (.inr ⟨he, hlt, b, hm, rfl⟩)⟩
    · exact absurd ⟨_, popByte_ok.mpr (.inl ⟨he, rfl⟩)⟩ hno

/-- Everything a turn can do that is not a drain step: pass, run the next command, or record an illegal word. -/
theorem turnResult_command {s : State} (h : ¬ (s.issuer = .C ∧ s.busy = true)) :
    ((s.port s.issuer).cmds = [] ∧ turnResult s = .next s) ∨
    (∃ w ws, (s.port s.issuer).cmds = w :: ws ∧
      ((∃ i, decodeCmd w = .ok i ∧ turnResult s = exec i (taken s.issuer ws s)) ∨
       (∃ e, decodeCmd w = .error e ∧ turnResult s = .next (raiseFault .illegal w (taken s.issuer ws s))))) := by
  have hd : fetchTurn s = fetchCommand s := by
    unfold fetchTurn
    rw [if_neg]
    simpa [and_comm] using h
  unfold turnResult
  rw [hd]
  unfold fetchCommand
  cases hc : (s.port s.issuer).cmds with
  | nil => exact .inl ⟨rfl, rfl⟩
  | cons w ws =>
    refine .inr ⟨w, ws, rfl, ?_⟩
    cases hw : decodeCmd w with
    | ok i => exact .inl ⟨i, rfl, by simp only [hw]; rfl⟩
    | error e => exact .inr ⟨e, rfl, by simp only [hw]; rfl⟩

/-- A run of one more step, where the first one answers a next state. -/
theorem run_succ {s t : State} (n : Nat) (h : step s = .next t) :
    Host.Core.run Sys2Proof.core (n + 1) s = Host.Core.run Sys2Proof.core n t := by
  have h' : Sys2Proof.core.step s = .next t := h
  simp only [Host.Core.run, h']

end Sys2Proof.Machine
end

