-- ==== Sys2Proof/Machine/Assembler.lean ====
section
/-! DEFINITION. The command notation: a line of assembly and the pseudo-instructions (30_encoding.md R95, R96). Text is
a list of characters. -/

namespace Sys2Proof.Machine

/-- The mnemonics with their opcodes (30_encoding.md R88, R95). -/
def opcodeOf (m : List Char) : Option Byte :=
  if m = "Q_INIT".toList then some 0x10#8
  else if m = "Q_PUSH".toList then some 0x11#8
  else if m = "Q_POP".toList then some 0x12#8
  else if m = "Q_PEEK".toList then some 0x13#8
  else if m = "Q_IS_FULL".toList then some 0x14#8
  else if m = "Q_IS_EMPTY".toList then some 0x15#8
  else if m = "DEC_FEED".toList then some 0x20#8
  else if m = "DEC_RESET".toList then some 0x21#8
  else if m = "DEC_SET_CHANNEL".toList then some 0x22#8
  else if m = "DEC_SET_OMNI".toList then some 0x23#8
  else if m = "DEC_GET_CHANNEL".toList then some 0x24#8
  else if m = "DEC_GET_OMNI".toList then some 0x25#8
  else if m = "DEC_SET_CALLBACK".toList then some 0x26#8
  else if m = "TRK_NOTE_ON".toList then some 0x30#8
  else if m = "TRK_NOTE_OFF".toList then some 0x31#8
  else if m = "TRK_HELD_COUNT".toList then some 0x32#8
  else if m = "TRK_SOUNDING_NOTE".toList then some 0x33#8
  else if m = "TRK_RESET".toList then some 0x34#8
  else if m = "TOP_UPDATE".toList then some 0x40#8
  else if m = "TOP_RX_ERROR".toList then some 0x41#8
  else if m = "TOP_GET_GATE".toList then some 0x42#8
  else none

/-- The names an operand may be written by (30_encoding.md R95). -/
def operandName (t : List Char) : Option Nat :=
  if t = "K_NOTE_ON".toList then some 0
  else if t = "K_NOTE_OFF".toList then some 1
  else if t = "K_CC".toList then some 2
  else if t = "K_PB".toList then some 3
  else if t = "K_RT".toList then some 4
  else if t = "NONE".toList then some 0
  else if t = "HOST".toList then some 1
  else if t = "TRACKER".toList then some 2
  else none

/-- The value of a digit in a base of at most 16. -/
def digitOf (base : Nat) (c : Char) : Option Nat :=
  let n := c.toNat
  let d := if 48 ≤ n ∧ n ≤ 57 then some (n - 48)
    else if 65 ≤ n ∧ n ≤ 70 then some (n - 55)
    else if 97 ≤ n ∧ n ≤ 102 then some (n - 87)
    else none
  d.bind (fun v => if v < base then some v else none)

/-- The value of a string of digits, after the value read so far. -/
def digitsOf (base : Nat) : Nat → List Char → Option Nat
  | acc, [] => some acc
  | acc, c :: cs => (digitOf base c).bind (fun d => digitsOf base (acc * base + d) cs)

/-- A decimal or `0x` hexadecimal number, or a name (30_encoding.md R95), that fits an operand byte (log entry 16). -/
def operandOf (t : List Char) : Option Byte :=
  let n := match t with
    | '0' :: 'x' :: c :: cs => digitsOf 16 0 (c :: cs)
    | c :: cs => if (digitOf 10 c).isSome then digitsOf 10 0 (c :: cs) else operandName t
    | [] => none
  n.bind (fun v => if v < 256 then some (BitVec.ofNat 8 v) else none)

/-- The line without its comment (`;` starts one). -/
def withoutComment : List Char → List Char
  | [] => []
  | c :: cs => if c = ';' then [] else c :: withoutComment cs

/-- The line's words: runs of characters other than blanks, with `:` and `,` standing alone. -/
def wordsOf : List Char → List (List Char)
  | [] => []
  | c :: cs =>
    if c = ' ' ∨ c = '\t' then [] :: wordsOf cs
    else if c = ':' ∨ c = ',' then [] :: [c] :: [] :: wordsOf cs
    else match wordsOf cs with
      | [] => [[c]]
      | w :: ws => (c :: w) :: ws

/-- The operands of a line, separated by commas. -/
def operandsOf : List (List Char) → Option (List Byte)
  | [] => some []
  | [t] => (operandOf t).map (fun v => [v])
  | t :: c :: ts =>
    if c = [','] ∧ ts ≠ [] then
      (operandOf t).bind (fun v => (operandsOf ts).map (fun vs => v :: vs))
    else none

/-- One command a line assembles to. -/
abbrev Issued := Agent × CmdWord

/-- The command words of a mnemonic or pseudo-instruction with its operands (30_encoding.md R95, R96); an omitted
operand is 0. -/
def expand (ag : Agent) (m : List Char) (ops : List Byte) : Option (List Issued) :=
  match opcodeOf m, ops with
  | some op, [] => some [(ag, cmdOf op 0#8 0#8)]
  | some op, [a] => some [(ag, cmdOf op a 0#8)]
  | some op, [a, b] => some [(ag, cmdOf op a b)]
  | some _, _ => none
  | none, _ =>
    if m = "SEND".toList ∧ ag = .P ∧ ops ≠ [] then some (ops.map (fun b => (.P, cmdOf 0x11#8 b 0#8)))
    else if m = "FEEDS".toList ∧ ops ≠ [] then some (ops.map (fun b => (ag, cmdOf 0x20#8 b 0#8)))
    else if m = "CB_ALL_HOST".toList ∧ ag = .C ∧ ops = [] then
      some ([0#8, 1#8, 2#8, 3#8, 4#8].map (fun k => (.C, cmdOf 0x26#8 k 1#8)))
    else if m = "RESET_ALL".toList ∧ ag = .C ∧ ops = [] then
      some [(.C, cmdOf 0x21#8 0#8 0#8), (.C, cmdOf 0x34#8 0#8 0#8)]
    else none

/-- A line `AGENT: MNEMONIC [A[, B]]` (30_encoding.md R95) as the commands it stands for; none for any other text. -/
def assembleLine (line : List Char) : Option (List Issued) :=
  match (wordsOf (withoutComment line)).filter (fun w => w ≠ []) with
  | ag :: colon :: m :: rest =>
    if colon = [':'] then
      (operandsOf rest).bind (fun ops =>
        if ag = ['P'] then expand .P m ops
        else if ag = ['C'] then expand .C m ops
        else none)
    else none
  | _ => none

/-- The issued commands presented to the two ports in their order, the turns being theirs. -/
def present : List Issued → State → State
  | [], s => s
  | (a, w) :: rest, s =>
    present rest ((s.withPort a { s.port a with cmds := (s.port a).cmds ++ [w] }).withTurns (s.turns ++ [a]))

end Sys2Proof.Machine
end

