-- ==== Sys2Proof/Tests/Slice0.lean ====
section
/-! SUPPORT. The model's own tests: expected values from the spec's encodings, examples and vectors (95_test_vectors.md), and
for each statement with hypotheses a state that meets them. -/

namespace Sys2Proof.Tests

open Sys2Proof Sys2Proof.Machine

/-- Parameters with the two open notes fixed, as the vectors do where they need a number, and `P_QCAP = 4`. -/
def params : Params where
  qcap := 4
  trkCap := 25
  defaultNote := 48#7
  zeroRefNote := 48#7
  initChannel := 1#5
  initOmni := false
  scClearsRs := true
  errResetsTracker := false
  feedPath := .queued

def clean : State := State.resetWith params
def cleanP : State := clean.withIssuer .P
def allHost : Callbacks := { noteOn := .host, noteOff := .host, cc := .host, pb := .host, rt := .host }

/-- A state in the middle of a message, every event to the host. -/
def midMessage (st : Byte) (d1 : Data7) : State :=
  clean.withD { clean.d with state := .await2, rs := st, cs := st, d1 := d1, exp := 2#2, cb := allHost }

/-- Two queued bytes, 0x90 in slot 3 and 0x3C in slot 0, and two held notes. -/
def sample : State :=
  (clean.withQ { mem := [(0, 0x3C#8), (3, 0x90#8)], wi := 1, ri := 3 }).withT
    { held := [{ note := 60#7, vel := 100#7 }, { note := 64#7, vel := 90#7 }], latched := 64#7 }

/-- A full queue: three of its four slots hold a byte. -/
def fullQueue : State :=
  clean.withQ { mem := [(0, 0x11#8), (1, 0x22#8), (2, 0x33#8)], wi := 3, ri := 0 }

def nextOf : Result → Option State
  | .next s => some s
  | .fault _ => none
  | .refused _ => none

theorem nextOf_eq {r : Result} {t : State} (h : nextOf r = some t) : r = .next t := by
  cases r <;> simp_all [nextOf]

/-- What a state after an instruction shows: the indices and the responses at C. -/
def queueView (r : Result) : Option (Nat × Nat × List RespWord) := (nextOf r).map (fun t => (t.q.wi, t.q.ri, t.portC.resp))
def decoderView (r : Result) : Option (ParseState × Byte × Byte × Data7 × Data7 × BitVec 2) :=
  (nextOf r).map (fun t => parseRegs t.d)
def eventsOf (r : Result) : Option (List Event) := (nextOf r).map (fun t => t.events)
def respOf (r : Result) : Option (List RespWord) := (nextOf r).map (fun t => t.portC.resp)
def trackerOf (r : Result) : Option Tracker := (nextOf r).map (fun t => t.t)
def faultOf (r : Result) : Option FaultRecord := (nextOf r).bind (fun t => t.fault)

/-! WellFormed: one ill-formed term for each bound of 30_encoding.md R90, and its neighbour that is well formed. -/

theorem test_illformed_channel_0 : (Instr.decSetChannel 0#8).wellFormed = false := by decide
theorem test_illformed_channel_17 : (Instr.decSetChannel 17#8).wellFormed = false := by decide
theorem test_illformed_omni_2 : (Instr.decSetOmni 2#8).wellFormed = false := by decide
theorem test_illformed_kind_5 : (Instr.decSetCallback 5#8 1#8).wellFormed = false := by decide
theorem test_illformed_target_3 : (Instr.decSetCallback 0#8 3#8).wellFormed = false := by decide
theorem test_illformed_tracker_cc : (Instr.decSetCallback 2#8 2#8).wellFormed = false := by decide
theorem test_illformed_note_on_128 : (Instr.trkNoteOn 128#8 1#8).wellFormed = false := by decide
theorem test_illformed_velocity_128 : (Instr.trkNoteOn 1#8 128#8).wellFormed = false := by decide
theorem test_illformed_note_off_128 : (Instr.trkNoteOff 128#8).wellFormed = false := by decide
theorem test_wellformed_bounds :
    (Instr.decSetChannel 1#8).wellFormed = true ∧ (Instr.decSetChannel 16#8).wellFormed = true ∧
      (Instr.decSetOmni 1#8).wellFormed = true ∧ (Instr.decSetCallback 1#8 2#8).wellFormed = true ∧
      (Instr.decSetCallback 4#8 1#8).wellFormed = true ∧ (Instr.trkNoteOn 127#8 127#8).wellFormed = true ∧
      (Instr.trkNoteOff 127#8).wellFormed = true := by decide

/-! Decoding: a word of every row, its bits written out from the encoding column of opcode_table.json. -/

theorem test_decode_input_bytes :
    decodeByte 0b11111010#8 = .midiRealtime 0b010#3 ∧ decodeByte 0b11110111#8 = .midiSysCommon 0b111#3 ∧
      decodeByte 0b10000001#8 = .midiNoteOff 0b0001#4 ∧ decodeByte 0b10011111#8 = .midiNoteOn 0b1111#4 ∧
      decodeByte 0b10100010#8 = .midiStatusA 0b0010#4 ∧ decodeByte 0b10110100#8 = .midiControlChange 0b0100#4 ∧
      decodeByte 0b11000101#8 = .midiStatusC 0b0101#4 ∧ decodeByte 0b11010110#8 = .midiStatusD 0b0110#4 ∧
      decodeByte 0b11101000#8 = .midiPitchBend 0b1000#4 ∧ decodeByte 0b01010011#8 = .midiData 0b1010011#7 := by decide
theorem test_decode_queue_commands :
    decodeCmd 0b000100000000000000000000#24 = .ok .qInit ∧
      decodeCmd 0b000100011001000100000000#24 = .ok (.qPush 0x91#8) ∧
      decodeCmd 0b000100100000000000000000#24 = .ok .qPop ∧ decodeCmd 0b000100110000000000000000#24 = .ok .qPeek ∧
      decodeCmd 0b000101000000000000000000#24 = .ok .qIsFull ∧
      decodeCmd 0b000101010000000000000000#24 = .ok .qIsEmpty := ⟨rfl, rfl, rfl, rfl, rfl, rfl⟩
theorem test_decode_decoder_commands :
    decodeCmd 0b001000001111000000000000#24 = .ok (.decFeed 0xF0#8) ∧
      decodeCmd 0b001000010000000000000000#24 = .ok .decReset ∧
      decodeCmd 0b001000100001000000000000#24 = .ok (.decSetChannel 16#8) ∧
      decodeCmd 0b001000110000000100000000#24 = .ok (.decSetOmni 1#8) ∧
      decodeCmd 0b001001000000000000000000#24 = .ok .decGetChannel ∧
      decodeCmd 0b001001010000000000000000#24 = .ok .decGetOmni ∧
      decodeCmd 0b001001100000001100000001#24 = .ok (.decSetCallback 3#8 1#8) := ⟨rfl, rfl, rfl, rfl, rfl, rfl, rfl⟩
theorem test_decode_tracker_commands :
    decodeCmd 0b001100000011110001100100#24 = .ok (.trkNoteOn 60#8 100#8) ∧
      decodeCmd 0b001100010100000000000000#24 = .ok (.trkNoteOff 64#8) ∧
      decodeCmd 0b001100100000000000000000#24 = .ok .trkHeldCount ∧
      decodeCmd 0b001100110000000000000000#24 = .ok .trkSoundingNote ∧
      decodeCmd 0b001101000000000000000000#24 = .ok .trkReset := ⟨rfl, rfl, rfl, rfl, rfl⟩
theorem test_decode_top_commands :
    decodeCmd 0b010000000000000000000000#24 = .ok .topUpdate ∧
      decodeCmd 0b010000010000000000000000#24 = .ok .topRxError ∧
      decodeCmd 0b010000100000000000000000#24 = .ok .topGetGate := ⟨rfl, rfl, rfl⟩

/-- 30_encoding.md R91: the ends of each reserved opcode range. -/
theorem test_reserved_opcodes :
    ∀ op ∈ [0x00#8, 0x0F#8, 0x16#8, 0x1F#8, 0x27#8, 0x2F#8, 0x35#8, 0x3F#8, 0x43#8, 0xFF#8], opcodeMap op = none := by
  unfold opcodeMap
  intro op h
  simp only [List.mem_cons, List.not_mem_nil, or_false] at h
  rcases h with rfl | rfl | rfl | rfl | rfl | rfl | rfl | rfl | rfl | rfl <;> rfl
/-- 95_test_vectors.md QF5, QF6, X9: a reserved field that is not zero. -/
theorem test_reserved_fields :
    decodeCmd 0x119001#24 = .error .reservedField ∧ decodeCmd 0x120100#24 = .error .reservedField ∧
      decodeCmd 0x400001#24 = .error .reservedField := ⟨rfl, rfl, rfl⟩

/-! The host's view: `decodeTableWord` and `withFetchWord`, from reset. -/

theorem test_table_word_of_each_format :
    decodeTableWord 8 0x92 = some (.midiNoteOn 2#4) ∧ decodeTableWord 24 0x303C64 = some (.trkNoteOn 60#8 100#8) ∧
      decodeTableWord 24 0x160000 = none := ⟨by decide, rfl, rfl⟩
theorem test_fetch_word_runs_push :
    (nextOf (step (State.reset.withFetchWord 24 0x119000))).map (fun t => (t.q.wi, t.q.mem, t.portP.resp)) =
      some (1, [(0, 0x90#8)], [1#16]) := by decide
theorem test_fetch_word_runs_byte :
    (nextOf (step (State.reset.withFetchWord 8 0x92))).map (fun t => parseRegs t.d) =
      some (.await1, 0x92#8, 0x92#8, 0#7, 0#7, 2#2) := by decide
theorem test_fetch_word_illegal :
    faultOf (step (State.reset.withFetchWord 24 0x160000)) = some { reason := .illegal, word := 0x160000#24, agent := .C } := by
  decide

/-! ByteQueue (40_byte_queue.md, the examples; 95_test_vectors.md L1.6, L2.Q) -/

theorem test_q_init : queueView (execQInit (clean.withQ { mem := [], wi := 3, ri := 1 })) = some (0, 0, [0#16]) := by decide
theorem test_q_push_writes :
    (nextOf (execQPush 0x90#8 cleanP)).map (fun t => (t.q.wi, memGet t.q.mem 0, t.portP.resp)) =
      some (1, some 0x90#8, [1#16]) := by decide
theorem test_q_push_full :
    (nextOf (execQPush 0x44#8 (fullQueue.withIssuer .P))).map (fun t => (t.q, t.portP.resp)) =
      some (fullQueue.q, [0#16]) := by decide
theorem test_q_pop : queueView (execQPop fullQueue) = some (3, 1, [0x0111#16]) := by decide
theorem test_q_pop_wraps : queueView (execQPop sample) = some (1, 0, [0x0190#16]) := by decide
theorem test_q_peek : queueView (execQPeek fullQueue) = some (3, 0, [0x0111#16]) := by decide
theorem test_q_peek_empty : queueView (execQPeek clean) = some (0, 0, [0#16]) := by decide
theorem test_q_is_full : queueView (execQIsFull fullQueue) = some (3, 0, [1#16]) := by decide
theorem test_q_is_empty : queueView (execQIsEmpty clean) = some (0, 0, [1#16]) := by decide

/-! Input bytes (95_test_vectors.md L1, L2.D) -/

/-- D6: a real-time byte inside a message. -/
theorem test_realtime_inside_message :
    (nextOf (execMidiRealtime 0#3 (midMessage 0x90#8 60#7))).map (fun t => (t.events, t.d)) =
      some ([.realTime 0xF8#8], (midMessage 0x90#8 60#7).d) := by decide
/-- D9 and D10: whether the running status survives. -/
theorem test_syscommon_clears_running_status :
    decoderView (execMidiSysCommon 0#3 (midMessage 0x90#8 60#7)) = some (.idle, 0#8, 0#8, 0#7, 0#7, 0#2) := by decide
/-- D14: a status byte abandons the message in progress. -/
theorem test_note_off_status :
    decoderView (execMidiNoteOff 0#4 (midMessage 0x90#8 60#7)) = some (.await1, 0x80#8, 0x80#8, 0#7, 0#7, 2#2) := by
  decide
theorem test_note_on_status : decoderView (execMidiNoteOn 2#4 clean) = some (.await1, 0x92#8, 0x92#8, 0#7, 0#7, 2#2) := by decide
theorem test_status_a : decoderView (execMidiStatusA 0#4 clean) = some (.idle, 0xA0#8, 0xA0#8, 0#7, 0#7, 0#2) := by decide
theorem test_control_change_status :
    decoderView (execMidiControlChange 0#4 clean) = some (.await1, 0xB0#8, 0xB0#8, 0#7, 0#7, 2#2) := by decide
theorem test_status_c : decoderView (execMidiStatusC 0#4 clean) = some (.idle, 0xC0#8, 0xC0#8, 0#7, 0#7, 0#2) := by decide
theorem test_status_d : decoderView (execMidiStatusD 15#4 clean) = some (.idle, 0xDF#8, 0xDF#8, 0#7, 0#7, 0#2) := by decide
theorem test_pitch_bend_status :
    decoderView (execMidiPitchBend 0#4 clean) = some (.await1, 0xE0#8, 0xE0#8, 0#7, 0#7, 2#2) := by decide
/-- L1.3: velocity 0. -/
theorem test_data_velocity_zero :
    eventsOf (execMidiData 0#7 (midMessage 0x90#8 67#7)) = some [.noteOff 67#7 0#7 1#5] := by decide
/-- D4: pitch bend -1, the low part first. -/
theorem test_data_pitch_bend :
    eventsOf (execMidiData 63#7 (midMessage 0xE0#8 127#7)) = some [.pitchBend (-1) 1#5] := by decide

/-! Decoder commands (41_message_decoder.md, the examples) -/

theorem test_dec_feed :
    decoderView (execDecFeed 0x90#8 clean) = some (.await1, 0x90#8, 0x90#8, 0#7, 0#7, 2#2) := by decide
theorem test_dec_reset :
    decoderView (execDecReset (midMessage 0x90#8 60#7)) = some (.idle, 0#8, 0#8, 0#7, 0#7, 0#2) := by decide
theorem test_dec_set_channel : (nextOf (execDecSetChannel 16#8 clean)).map (fun t => t.d.chan) = some 16#5 := by decide
theorem test_dec_set_omni : (nextOf (execDecSetOmni 1#8 clean)).map (fun t => t.d.omni) = some true := by decide
theorem test_dec_get_channel : respOf (execDecGetChannel clean) = some [1#16] := by decide
theorem test_dec_get_omni : respOf (execDecGetOmni clean) = some [0#16] := by decide
theorem test_dec_set_callback :
    (nextOf (execDecSetCallback 3#8 1#8 clean)).map (fun t => t.d.cb) = some { clean.d.cb with pb := .host } := by decide
/-- DF4 and DF10: the recorded fault, and CONTEXT before OPERAND. -/
theorem test_dec_set_callback_fault :
    faultOf (execDecSetCallback 2#8 2#8 clean) = some { reason := .operand, word := 0x260202#24, agent := .C } := by decide
theorem test_dec_set_channel_context_first :
    faultOf (execDecSetChannel 0#8 cleanP) = some { reason := .context, word := 0x220000#24, agent := .P } := by decide

/-! Tracker (95_test_vectors.md L2.T) -/

/-- T1: a duplicate is not moved and keeps its velocity. -/
theorem test_trk_note_on_duplicate : trackerOf (execTrkNoteOn 60#8 50#8 sample) = some sample.t := by decide
theorem test_trk_note_on_appends :
    trackerOf (execTrkNoteOn 67#8 1#8 sample) =
      some { held := sample.t.held ++ [{ note := 67#7, vel := 1#7 }], latched := 67#7 } := by decide
theorem test_trk_note_off_last :
    trackerOf (execTrkNoteOff 64#8 sample) = some { held := [{ note := 60#7, vel := 100#7 }], latched := 60#7 } := by decide
theorem test_trk_note_off_first :
    trackerOf (execTrkNoteOff 60#8 sample) = some { held := [{ note := 64#7, vel := 90#7 }], latched := 64#7 } := by decide
theorem test_trk_held_count : respOf (execTrkHeldCount sample) = some [2#16] := by decide
theorem test_trk_sounding_note : respOf (execTrkSoundingNote sample) = some [0x40#16] := by decide
theorem test_trk_reset : trackerOf (execTrkReset sample) = some { held := [], latched := 48#7 } := by decide

/-! Top level (95_test_vectors.md L2.X) -/

/-- X8: the first drain step pops one byte and the update goes on. -/
theorem test_top_update_first_drain :
    (nextOf (execTopUpdate sample)).map (fun t => (t.q.ri, t.busy, t.d.state, t.portC.resp)) =
      some (0, true, .await1, []) := by decide
theorem test_top_update_empty :
    (nextOf (execTopUpdate clean)).map (fun t => (t.busy, t.portC.resp)) = some (false, [0#16]) := by decide
theorem test_top_rx_error :
    (nextOf (execTopRxError ((midMessage 0x90#8 60#7).withT sample.t))).map (fun t => (t.d.state, t.d.rs, t.t)) =
      some (.idle, 0#8, sample.t) := by decide
theorem test_top_get_gate : respOf (execTopGetGate sample) = some [1#16] := by decide

/-! Words of the interface (30_encoding.md R94 to R96, 43_top_level.md R208) -/

/-- L1.4. -/
theorem test_event_words :
    eventWord (.pitchBend 0 1#5) = 0x3000000#27 ∧ eventWord (.pitchBend 8191 1#5) = 0x3001FFF#27 ∧
      eventWord (.pitchBend (-8192) 1#5) = 0x3002000#27 := by decide
theorem test_assembler :
    assembleLine "P: Q_PUSH 0x90".toList = some [(.P, 0x119000#24)] ∧
      assembleLine "C: TRK_NOTE_ON 60, 100 ; a comment".toList = some [(.C, 0x303C64#24)] := by decide
theorem test_pseudo_instructions :
    assembleLine "C: CB_ALL_HOST".toList =
        some [(.C, 0x260001#24), (.C, 0x260101#24), (.C, 0x260201#24), (.C, 0x260301#24), (.C, 0x260401#24)] ∧
      assembleLine "P: SEND 0x90, 0x3C".toList = some [(.P, 0x119000#24), (.P, 0x113C00#24)] ∧
      assembleLine "C: RESET_ALL".toList = some [(.C, 0x210000#24), (.C, 0x340000#24)] := by decide
/-- R208: with reference note 48, pitch 64 gives 4/3. -/
theorem test_voltage : voltage sample = 4 / 3 := by
  simp [voltage, pitch, soundingNote, sample, clean, State.resetWith, State.withQ, State.withT, params]
  norm_num
/-- 00_scope.md R8: 7 bits at the default capacity, 16 at most. -/
theorem test_index_width : ({ params with qcap := 120 } : Params).idxWidth = 7 ∧
    ({ params with qcap := 65536 } : Params).idxWidth = 16 := by decide

/-! Witnesses: for each statement with hypotheses, states and operands that meet all of them together. -/

theorem sample_inv : Inv sample :=
  ⟨by decide, ⟨by decide, by decide, by decide, by decide, by decide⟩,
    ⟨by decide, by decide, by decide, by decide, by decide, by decide⟩,
    ⟨by decide, by decide, by decide⟩, by decide, by decide⟩

/-- The sample in the middle of an update, C's turn next. -/
def draining : State := (sample.withBusy true).withTurns [.C, .P]

theorem draining_inv : Inv draining :=
  ⟨by decide, ⟨by decide, by decide, by decide, by decide, by decide⟩,
    ⟨by decide, by decide, by decide, by decide, by decide, by decide⟩,
    ⟨by decide, by decide, by decide⟩, by decide, by decide⟩

/-- The sample with a command presented at P and one at C. -/
def presented (a : Agent) : State :=
  ((sample.withPort .P { cmds := [0x119000#24], resp := [] }).withPort .C { cmds := [0x400000#24], resp := [] }).withTurns
    [a, .C, .C, .P]

theorem presented_inv (a : Agent) : Inv (presented a) := by
  cases a <;>
  exact ⟨by decide, ⟨by decide, by decide, by decide, by decide, by decide⟩,
    ⟨by decide, by decide, by decide, by decide, by decide, by decide⟩,
    ⟨by decide, by decide, by decide⟩, by decide, by decide⟩

def launchOf (cap : Nat) : LaunchParams where
  qcap := cap
  trkCap := 25
  defaultNote := 127
  zeroRefNote := 48
  initChannel := 16
  initOmni := true
  scClearsRs := true
  errResetsTracker := false
  feedPath := .direct

def faulted : FaultRecord := { reason := .operand, word := 0x220000#24, agent := .C }

theorem witness_LaunchPutsResetValues : launchLegal (launchOf 2) = true ∧ launchLegal (launchOf 65536) = true := by decide
theorem witness_IllegalConfigurationRefused :
    (launchOf 1).qcap < 2 ∧ 65536 < (launchOf 65537).qcap ∧
      127 < ({ launchOf 4 with defaultNote := 128 } : LaunchParams).defaultNote ∧
      127 < ({ launchOf 4 with zeroRefNote := 128 } : LaunchParams).zeroRefNote ∧
      (State.resetWith { params with qcap := 1 }).cfg.qcap < 2 ∧
      65536 < (State.resetWith { params with qcap := 65537 }).cfg.qcap := by decide
theorem witness_LaunchHasInvariant : launch (launchOf 4) = .next (State.resetWith (paramsOf (launchOf 4))) := rfl
theorem witness_StepKeepsInvariant : Inv draining ∧ (nextOf (step draining)).isSome = true := ⟨draining_inv, by decide⟩
theorem witness_InvariantExcludesModelFaults : Inv (presented .P) ∧ (presented .P).fault = none := ⟨presented_inv .P, rfl⟩
theorem witness_EncodeOfDecode : decode (.cmd 0x303C64#24) = .ok (.trkNoteOn 60#8 100#8) := rfl
/-- Each clause at both ends of its range. -/
theorem witness_InputByteClasses :
    decodeByte 0xFF#8 = .midiRealtime 7#3 ∧ decodeByte 0xF8#8 = .midiRealtime 0#3 ∧
      decodeByte 0xF7#8 = .midiSysCommon 7#3 ∧ decodeByte 0xF0#8 = .midiSysCommon 0#3 ∧
      decodeByte 0xEF#8 = .midiPitchBend 15#4 ∧ decodeByte 0xE0#8 = .midiPitchBend 0#4 ∧
      decodeByte 0xDF#8 = .midiStatusD 15#4 ∧ decodeByte 0xD0#8 = .midiStatusD 0#4 ∧
      decodeByte 0xCF#8 = .midiStatusC 15#4 ∧ decodeByte 0xC0#8 = .midiStatusC 0#4 ∧
      decodeByte 0xBF#8 = .midiControlChange 15#4 ∧ decodeByte 0xB0#8 = .midiControlChange 0#4 ∧
      decodeByte 0xAF#8 = .midiStatusA 15#4 ∧ decodeByte 0xA0#8 = .midiStatusA 0#4 ∧
      decodeByte 0x9F#8 = .midiNoteOn 15#4 ∧ decodeByte 0x90#8 = .midiNoteOn 0#4 ∧
      decodeByte 0x8F#8 = .midiNoteOff 15#4 ∧ decodeByte 0x80#8 = .midiNoteOff 0#4 ∧
      decodeByte 0x7F#8 = .midiData 127#7 ∧ decodeByte 0x00#8 = .midiData 0#7 := by decide
theorem witness_FeedExecutesDecodedByte : sample.fault = none := rfl
theorem witness_EventWordLossless :
    eventOk (.noteOn 127#7 127#7 16#5) = true ∧ eventOk (.noteOff 0#7 0#7 1#5) = true ∧
      eventOk (.controlChange 7#7 100#7 1#5) = true ∧ eventOk (.pitchBend (-8192) 16#5) = true ∧
      eventOk (.pitchBend 8191 1#5) = true ∧ eventOk (.realTime 0xF8#8) = true := by decide
theorem witness_StepRunsPresentedCommand :
    (presented .P).cfg.legal = true ∧ (presented .P).fault = none ∧ (presented .P).turns = .P :: [.C, .C, .P] ∧
      ((presented .P).port .P).cmds = 0x119000#24 :: [] ∧ ¬ (Agent.P = .C ∧ (presented .P).busy = true) ∧
      decodeCmd 0x119000#24 = .ok (.qPush 0x90#8) := ⟨by decide, rfl, rfl, rfl, by decide, rfl⟩
theorem witness_StepRunsDrainedByte :
    draining.cfg.legal = true ∧ draining.fault = none ∧ draining.busy = true ∧ draining.turns = .C :: [.P] ∧
      draining.q.wi ≠ draining.q.ri ∧ draining.q.ri < draining.cfg.qcap ∧
      memGet draining.q.mem draining.q.ri = some 0x90#8 := by decide
theorem witness_StepRunsDrainedByte_empty :
    ((clean.withBusy true).withTurns [.C]).cfg.legal = true ∧ ((clean.withBusy true).withTurns [.C]).fault = none ∧
      ((clean.withBusy true).withTurns [.C]).busy = true ∧ ((clean.withBusy true).withTurns [.C]).turns = .C :: [] ∧
      ((clean.withBusy true).withTurns [.C]).q.wi = ((clean.withBusy true).withTurns [.C]).q.ri := by decide
def illegalPresented : State := (clean.withPort .C { cmds := [0x160000#24], resp := [] }).withTurns [.C]
theorem witness_IllegalWordRecordsFault :
    illegalPresented.cfg.legal = true ∧ illegalPresented.fault = none ∧ illegalPresented.turns = .C :: [] ∧
      (illegalPresented.port .C).cmds = 0x160000#24 :: [] ∧ ¬ (Agent.C = .C ∧ illegalPresented.busy = true) ∧
      decodeCmd 0x160000#24 = .error .badOpcode := ⟨by decide, rfl, rfl, rfl, by decide, rfl⟩
theorem witness_NoStepAfterFault :
    (clean.withFault (some faulted)).fault = some faulted ∧ (clean.withFault (some faulted)).cfg.legal = true := by decide
theorem witness_RunEndHasNoStep :
    (clean.cfg.legal = true ∧ clean.fault = none ∧ clean.portP.cmds = [] ∧ clean.portC.cmds = [] ∧ clean.busy = false) ∧
      ((sample.withBusy true).cfg.legal = true ∧ (sample.withBusy true).fault = none ∧
        (sample.withBusy true).busy = true ∧ (sample.withBusy true).turns = []) ∧
      (draining.portP.cmds = [] ∧ (draining.withTurns [.P]).turns = .P :: [] ∧ draining.busy = true ∧
        ((draining.withTurns [.P]).port .P).cmds = [] ∧ ¬ (Agent.P = .C ∧ draining.busy = true)) := by decide
/-- One unadmitted command for each line of the hypothesis. -/
theorem witness_UnadmittedCommandRecordsContext :
    clean.fault = none ∧ isInputByte (.qPush 0x90#8) = false ∧ clean.issuer = .C ∧
      isInputByte (.decFeed 0x90#8) = false ∧ cleanP.cfg.feedPath = .queued ∧ cleanP.issuer = .P ∧
      (State.resetWith { params with feedPath := .direct }).cfg.feedPath = .direct ∧
      (State.resetWith { params with feedPath := .direct }).issuer = .C ∧
      isInputByte .topUpdate = false ∧ isInputByte .qPop = false := by decide
theorem witness_OutOfRangeOperandRecordsFault :
    clean.fault = none ∧ clean.issuer = .C ∧ (0#8 : Byte).toNat < 1 ∧ 16 < (17#8 : Byte).toNat ∧ 1 < (2#8 : Byte).toNat ∧
      4 < (5#8 : Byte).toNat ∧ 2 < (3#8 : Byte).toNat ∧
      ((2#8 : Byte).toNat = 2 ∧ (4#8 : Byte).toNat ≠ 0 ∧ (4#8 : Byte).toNat ≠ 1) ∧ 127 < (128#8 : Byte).toNat := by decide
theorem witness_FaultedCommandWritesOnlyFault :
    exec (.decSetChannel 0#8) clean = .next (clean.withFault (some faulted)) ∧
      (clean.withFault (some faulted)).fault ≠ none := ⟨nextOf_eq (by decide), by decide⟩

def inputBytesOfC : List Instr :=
  [.midiRealtime 0#3, .midiSysCommon 0#3, .midiNoteOff 0#4, .midiNoteOn 0#4, .midiStatusA 0#4, .midiControlChange 0#4,
    .midiStatusC 0#4, .midiStatusD 0#4, .midiPitchBend 0#4, .midiData 0#7]
def commandsOfC : List Instr :=
  [.qInit, .qPop, .qPeek, .qIsFull, .qIsEmpty, .decFeed 0x90#8, .decReset, .decSetChannel 16#8, .decSetOmni 1#8,
    .decGetChannel, .decGetOmni, .decSetCallback 1#8 2#8, .trkNoteOn 127#8 127#8, .trkNoteOff 127#8, .trkHeldCount,
    .trkSoundingNote, .trkReset, .topUpdate, .topRxError, .topGetGate]
/-- One instance of each constructor with its admitted agent. -/
def oneOfEach : List (Instr × Agent) :=
  (.qPush 0x90#8, .P) :: (inputBytesOfC ++ commandsOfC).map (fun i => (i, .C))

theorem witness_AdmittedInstructionCompletes :
    ∀ p ∈ oneOfEach, (sample.withIssuer p.2).fault = none ∧
      admits (sample.withIssuer p.2).cfg (sample.withIssuer p.2).issuer p.1 = true ∧ p.1.wellFormed = true := by decide
theorem witness_AdmittedInstructionCompletes_inv (a : Agent) : Inv (sample.withIssuer a) := by
  cases a <;>
  exact ⟨by decide, ⟨by decide, by decide, by decide, by decide, by decide⟩,
    ⟨by decide, by decide, by decide, by decide, by decide, by decide⟩,
    ⟨by decide, by decide, by decide⟩, by decide, by decide⟩

/-- C's commands, no fault recorded: `QInitResult`, `DecFeedAndResetResult`, `DecoderSettersResult`,
`RegisterReadsResult`, `TrkResetResult`, `TopRxErrorResult`. -/
theorem witness_QInitResult : sample.fault = none ∧ sample.issuer = .C := by decide
theorem witness_QPushResult :
    (fullQueue.withIssuer .P).fault = none ∧ (fullQueue.withIssuer .P).issuer = .P ∧
      (fullQueue.q.wi + 1) % fullQueue.cfg.qcap = fullQueue.q.ri ∧
      (sample.q.wi + 1) % sample.cfg.qcap ≠ sample.q.ri ∧ sample.q.wi < sample.cfg.qcap := by decide
theorem witness_QPopResult :
    clean.fault = none ∧ clean.issuer = .C ∧ clean.q.wi = clean.q.ri ∧ sample.fault = none ∧ sample.issuer = .C ∧
      sample.q.wi ≠ sample.q.ri ∧ sample.q.ri < sample.cfg.qcap ∧ memGet sample.q.mem sample.q.ri = some 0x90#8 := by decide
theorem witness_QPeekResult : fullQueue.fault = none ∧ fullQueue.issuer = .C ∧ fullQueue.q.wi ≠ fullQueue.q.ri ∧
    fullQueue.q.ri < fullQueue.cfg.qcap ∧ memGet fullQueue.q.mem fullQueue.q.ri = some 0x11#8 := by decide
theorem witness_QueueQueriesResult :
    fullQueue.fault = none ∧ (fullQueue.q.wi + 1) % fullQueue.cfg.qcap = fullQueue.q.ri ∧ fullQueue.q.wi ≠ fullQueue.q.ri ∧
      clean.fault = none ∧ (clean.q.wi + 1) % clean.cfg.qcap ≠ clean.q.ri ∧ clean.q.wi = clean.q.ri := by decide
theorem witness_OccupancyConditions :
    2 ≤ sample.cfg.qcap ∧ sample.q.wi < sample.cfg.qcap ∧ sample.q.ri < sample.cfg.qcap := by decide
theorem witness_QueueIsFifo : Inv sample ∧ sample.fault = none ∧ sample.issuer = .C ∧ (sample.withIssuer .P).issuer = .P :=
  ⟨sample_inv, rfl, rfl, rfl⟩
theorem witness_OnlyPushWritesStorage :
    (nextOf (exec (.qPush 0x64#8) (sample.withIssuer .P))).isSome = true ∧ (nextOf (exec .qPop sample)).isSome = true ∧
      (∀ a, Instr.qPop ≠ .qPush a) := ⟨by decide, by decide, by simp⟩
theorem witness_RealTimeByteResult :
    clean.fault = none ∧ clean.d.cb.rt = .none ∧ (midMessage 0x90#8 60#7).fault = none ∧
      (midMessage 0x90#8 60#7).d.cb.rt = .host := by decide
/-- No fault recorded: `SystemCommonByteResult`, `StatusByteStartsMessage`, `ZeroDataStatusDeliversNothing`. -/
theorem witness_SystemCommonByteResult : (midMessage 0x90#8 60#7).fault = none := rfl
theorem witness_DataByteBeforeCompletion :
    clean.fault = none ∧ clean.d.state = .idle ∧ clean.d.rs = 0#8 ∧
      (0x9F#8 : Byte).toNat / 16 ∈ [0x8, 0x9, 0xB, 0xE] ∧ (0xAF#8 : Byte).toNat / 16 ∈ [0xA, 0xC, 0xD] ∧
      (statusByte 0x90#8 clean).d.state = .await1 ∧ (statusByte 0x90#8 clean).d.exp ≠ 1#2 ∧
      (clean.withD { clean.d with rs := 0x9F#8 }).d.rs.toNat / 16 ∈ [0x8, 0x9, 0xB, 0xE] := by decide
/-- Each kind of completed message; a message that the filter drops and one it passes; each target. -/
theorem witness_CompletedMessageDelivery :
    (midMessage 0x90#8 60#7).fault = none ∧ (midMessage 0x90#8 60#7).d.state = .await2 ∧
      MessageMeans 0x90#8 60#7 100#7 (.noteOn 60#7 100#7 1#5) ∧ MessageMeans 0x90#8 60#7 0#7 (.noteOff 60#7 0#7 1#5) ∧
      MessageMeans 0x8F#8 60#7 64#7 (.noteOff 60#7 64#7 16#5) ∧ MessageMeans 0xB0#8 7#7 100#7 (.controlChange 7#7 100#7 1#5) ∧
      MessageMeans 0xE0#8 127#7 63#7 (.pitchBend (-1) 1#5) ∧ (midMessage 0x90#8 60#7).d.omni = false ∧
      (midMessage 0x91#8 60#7).d.cs.toNat % 16 + 1 ≠ (midMessage 0x91#8 60#7).d.chan.toNat ∧
      (midMessage 0x90#8 60#7).d.cs.toNat % 16 + 1 = (midMessage 0x90#8 60#7).d.chan.toNat ∧
      targetFor allHost (eventKind (.noteOn 60#7 100#7 1#5)) = .host ∧
      targetFor clean.d.cb (eventKind (.noteOff 60#7 64#7 16#5)) = .tracker ∧
      targetFor clean.d.cb (eventKind (.pitchBend (-1) 1#5)) = .none := by
  refine ⟨rfl, rfl, ?_, ?_, ?_, ?_, ?_, rfl, by decide, by decide, rfl, rfl, rfl⟩ <;> unfold MessageMeans <;> decide
theorem witness_RunningStatusRepeatsStatus :
    (clean.withD { clean.d with rs := 0x90#8 }).d.state = .idle ∧
      isChannelStatus (clean.withD { clean.d with rs := 0x90#8 }).d.rs = true ∧
      expectedCount (clean.withD { clean.d with rs := 0x90#8 }).d.rs = 2#2 := by decide
theorem witness_FilteringDoesNotChangeParsing :
    parseRegs (clean.withD { clean.d with omni := true, cb := allHost }).d = parseRegs sample.d ∧
      (clean.withD { clean.d with omni := true, cb := allHost }).cfg.scClearsRs = sample.cfg.scClearsRs := by decide
theorem witness_DecoderWriteDiscipline :
    (nextOf (exec .decReset (midMessage 0x90#8 60#7))).map (fun t => decide (parseRegs t.d = parseRegs clean.d)) = some true ∧
      (nextOf (exec (.decSetChannel 5#8) clean)).map (fun t => t.d.chan) = some 5#5 ∧
      (nextOf (exec (.decSetOmni 1#8) clean)).map (fun t => t.d.omni) = some true ∧
      (nextOf (exec (.decSetCallback 3#8 1#8) clean)).map (fun t => t.d.cb.pb) = some .host := by decide
theorem witness_InputByteFrame :
    isInputByte (.midiData 100#7) = true ∧ (nextOf (exec (.midiData 100#7) (midMessage 0x90#8 60#7))).isSome = true := by decide
theorem witness_DecFeedAndResetResult :
    (clean.cfg.feedPath = .queued ∧ clean.issuer = .C ∧ clean.fault = none) ∧
      ((State.resetWith { params with feedPath := .direct }).withIssuer .P).cfg.feedPath = .direct ∧
      ((State.resetWith { params with feedPath := .direct }).withIssuer .P).issuer = .P := by decide
theorem witness_RegisterReadsResult :
    sample.fault = none ∧ sample.issuer = .C ∧ sample.t.held.length < 32 ∧
      sample.t.held = [{ note := 60#7, vel := 100#7 }] ++ [{ note := 64#7, vel := 90#7 }] ∧ clean.t.held = [] := by decide
theorem witness_TrkNoteOnResult :
    sample.fault = none ∧ sample.issuer = .C ∧ 60#7 ∈ sample.t.held.map Held.note ∧ 61#7 ∉ sample.t.held.map Held.note ∧
      sample.t.held.length ≠ sample.cfg.trkCap ∧
      ((State.resetWith { params with trkCap := 2 }).withT sample.t).t.held.length =
        ((State.resetWith { params with trkCap := 2 }).withT sample.t).cfg.trkCap := by decide
theorem witness_TrkNoteOffResult :
    sample.fault = none ∧ sample.issuer = .C ∧ 61#7 ∉ sample.t.held.map Held.note ∧
      sample.t.held = [] ++ { note := 60#7, vel := 100#7 } :: [{ note := 64#7, vel := 90#7 }] ∧
      60#7 ∉ ([] : List Held).map Held.note ∧
      [] ++ [{ note := 64#7, vel := 90#7 }] = [] ++ [({ note := 64#7, vel := 90#7 } : Held)] := by decide
theorem witness_SoundingNoteIsLatched : TrackerInv sample.cfg.trkCap sample.t ∧
    sample.t.held = [{ note := 60#7, vel := 100#7 }] ++ [{ note := 64#7, vel := 90#7 }] ∧ clean.t.held = [] :=
  ⟨sample_inv.tracker, rfl, rfl⟩
theorem witness_LatchedNotePersists :
    trackerOf (exec (.trkNoteOff 60#8) (clean.withT { held := [{ note := 60#7, vel := 1#7 }], latched := 60#7 })) =
        some { held := [], latched := 60#7 } ∧ Instr.trkNoteOff 60#8 ≠ .trkReset ∧ Instr.trkNoteOff 60#8 ≠ .topRxError := by
  decide
theorem witness_GateAfterNoteEvents : 1 ≤ sample.cfg.trkCap ∧
    (∀ h ∈ (trackerNoteOff 64#7 sample.t).held, h.note = 60#7) ∧ TrackerInv sample.cfg.trkCap (trackerNoteOff 64#7 sample.t) :=
  ⟨by decide, by decide, ⟨by decide, by decide, by decide⟩⟩
theorem witness_TopUpdateResult :
    sample.fault = none ∧ sample.issuer = .C ∧ sample.cfg.feedPath = .queued ∧ clean.q.wi = clean.q.ri ∧
      sample.q.wi ≠ sample.q.ri ∧ sample.q.ri < sample.cfg.qcap ∧ memGet sample.q.mem sample.q.ri = some 0x90#8 := by decide
theorem witness_UpdateDrainsQueuedBytes : Inv (presented .C) ∧ (presented .C).fault = none ∧ (presented .C).busy = false ∧
    (presented .C).cfg.feedPath = .queued ∧ (presented .C).portC.cmds = 0x400000#24 :: [] ∧
    (presented .C).turns = List.replicate (qCount (presented .C) + 1) .C ++ [.P] :=
  ⟨presented_inv .C, by decide, by decide, by decide, by decide, by decide⟩
theorem witness_DrainOrderIndependence : Inv draining ∧ draining.fault = none ∧ (nextOf (step draining)).isSome = true ∧
    draining.busy = true ∧ draining.turns = .C :: [.P] := ⟨draining_inv, by decide, by decide, by decide, by decide⟩
theorem witness_DrainOrderIndependence_issue : Inv (presented .C) ∧ (presented .C).fault = none ∧
    (nextOf (step (presented .C))).isSome = true ∧ (presented .C).turns = .C :: [.C, .C, .P] ∧
    (presented .C).busy = false ∧ (presented .C).cfg.feedPath = .queued ∧
    (presented .C).portC.cmds = 0x400000#24 :: [] :=
  ⟨presented_inv .C, by decide, by decide, by decide, by decide, by decide, by decide⟩
theorem witness_DrainOrderIndependence_push : Inv (presented .P) ∧ (nextOf (step (presented .P))).isSome = true ∧
    (presented .P).turns = .P :: [.C, .C, .P] ∧ (presented .P).portP.cmds = cmdOf 0x11#8 0x90#8 0#8 :: [] ∧
    qFull (presented .P) = false := ⟨presented_inv .P, by decide, by decide, by decide, by decide⟩
theorem witness_TopRxErrorResult :
    sample.fault = none ∧ sample.issuer = .C ∧ sample.cfg.errResetsTracker = false ∧
      (State.resetWith { params with errResetsTracker := true }).cfg.errResetsTracker = true := by decide
theorem witness_ReadOnlyCommandsIdempotent :
    ∀ i ∈ readOnlyCommands, sample.fault = none ∧ admits sample.cfg sample.issuer i = true ∧
      (nextOf (exec i sample)).isSome = true := by decide
theorem witness_AgentsWriteOnlyTheirOwn : (presented .P).cfg.feedPath = .queued ∧
    (nextOf (step (presented .P))).isSome = true ∧ (presented .P).turns = .P :: [.C, .C, .P] ∧
    (nextOf (step (presented .C))).isSome = true ∧ (presented .C).turns = .C :: [.C, .C, .P] := by decide
theorem witness_AgentsWriteOnlyTheirOwn_wi (ws : List CmdWord) : (presented .C).portC.cmds ≠ 0x100000#24 :: ws := by
  intro h
  have h' : [0x400000#24] = 0x100000#24 :: ws := h
  simp at h'
theorem witness_ParametersFixedAndLogsGrow : (nextOf (step (presented .C))).isSome = true := by decide

end Sys2Proof.Tests
end

section
/-! Scope (00_scope.md). The default parameters of block reset, the refusal of illegal parameters, and what no step
takes back: the parameters, the event log, the responses and a recorded fault. -/

namespace Sys2Proof.Machine

/-- Illegal parameters have no reset state (00_scope.md R7). -/
theorem launch_illegal {p : LaunchParams} (h : launchLegal p = false) : launch p = .refused .illegalConfiguration := by
  simp [launch, h]

/-- Illegal parameters have no step, whatever else the state holds (00_scope.md R7). -/
theorem step_illegal {s : State} (h : s.cfg.legal = false) : step s = .refused .illegalConfiguration := by
  simp [step, fetch, h]

/-- The ranges of 00_scope.md R7 that a launch checks. -/
theorem launchLegal_ranges {p : LaunchParams} (h : launchLegal p = true) :
    2 ≤ p.qcap ∧ p.qcap ≤ 65536 ∧ p.defaultNote ≤ 127 ∧ p.zeroRefNote ≤ 127 := by
  simp only [launchLegal, Bool.and_eq_true, decide_eq_true_eq] at h
  omega

theorem legal_qcap_range {p : Params} (h : p.legal = true) : 2 ≤ p.qcap ∧ p.qcap ≤ 65536 := by
  simp only [Params.legal, Bool.and_eq_true, decide_eq_true_eq] at h
  omega

/-- Nothing recorded is taken back between `s` and `t`: the parameters are the same (00_scope.md R6), and the event log
(10_state.md R47) and both ports' responses (30_encoding.md R93) begin with the old ones. -/
structure Extends (s t : State) : Prop where
  cfg    : t.cfg = s.cfg
  events : s.events <+: t.events
  resp   : ∀ a, (s.port a).resp <+: (t.port a).resp

@[simp] theorem Extends.refl (s : State) : Extends s s := ⟨rfl, List.prefix_rfl, fun _ => List.prefix_rfl⟩

theorem Extends.trans {s t u : State} (h : Extends s t) (h' : Extends t u) : Extends s u :=
  ⟨h'.cfg.trans h.cfg, h.events.trans h'.events, fun a => (h.resp a).trans (h'.resp a)⟩

/-- Only the parameters, the event log and the responses matter to `Extends`. -/
theorem extends_congr {s t u : State} (hc : u.cfg = t.cfg) (he : u.events = t.events)
    (hr : ∀ a, (u.port a).resp = (t.port a).resp) : Extends s u ↔ Extends s t :=
  ⟨fun ⟨c, e, r⟩ => ⟨hc ▸ c, he ▸ e, fun a => hr a ▸ r a⟩,
    fun ⟨c, e, r⟩ => ⟨hc ▸ c, he ▸ e, fun a => hr a ▸ r a⟩⟩

@[simp] theorem extends_withQ {s t : State} (q : Queue) : Extends s (t.withQ q) ↔ Extends s t :=
  extends_congr rfl rfl (by simp)
@[simp] theorem extends_withD {s t : State} (d : Decoder) : Extends s (t.withD d) ↔ Extends s t :=
  extends_congr rfl rfl (by simp)
@[simp] theorem extends_withT {s t : State} (k : Tracker) : Extends s (t.withT k) ↔ Extends s t :=
  extends_congr rfl rfl (by simp)
@[simp] theorem extends_withBusy {s t : State} (b : Bool) : Extends s (t.withBusy b) ↔ Extends s t :=
  extends_congr rfl rfl (by simp)
@[simp] theorem extends_atTurn {s t : State} (a : Agent) (rest : List Agent) :
    Extends s (atTurn a rest t) ↔ Extends s t :=
  extends_congr rfl rfl (by simp [atTurn])
@[simp] theorem extends_raiseFault {s t : State} (r : Reason) (w : CmdWord) :
    Extends s (raiseFault r w t) ↔ Extends s t :=
  extends_congr rfl rfl (by simp [raiseFault])

/-- Taking a presented command moves no response of either port. -/
@[simp] theorem extends_taken {s t : State} (a : Agent) (ws : List CmdWord) :
    Extends s (taken a ws t) ↔ Extends s t :=
  extends_congr (taken_cfg a ws t) (taken_events a ws t) (by
    intro g
    cases a <;> cases g <;> rfl)

/-- A response goes behind those its port has returned. -/
theorem respond_extends (r : RespWord) (s : State) : Extends s (respond r s) := by
  refine ⟨respond_cfg r s, by simp, fun a => ?_⟩
  rw [respond_resp]
  split
  · exact List.prefix_append _ _
  · exact List.prefix_rfl

@[simp] theorem Extends.respond {s t : State} (h : Extends s t) (r : RespWord) : Extends s (respond r t) :=
  h.trans (respond_extends r t)

/-- An event delivered to the host goes behind the logged ones (41_message_decoder.md R150). -/
theorem deliver_extends (ev : Event) (s : State) : Extends s (deliver ev s) := by
  obtain h | ⟨-, h⟩ | ⟨n, v, h⟩ | ⟨n, h⟩ := deliver_cases ev s
  · simp [h]
  · rw [h]
    exact ⟨rfl, List.prefix_append _ _, by simp⟩
  · simp [h]
  · simp [h]

theorem Extends.dispatch {s t : State} (h : Extends s t) (st : Byte) (d1 d2 : Data7) :
    Extends s (dispatch st d1 d2 t) := by
  obtain e | ⟨-, ev, -, e⟩ := dispatch_cases st d1 d2 t
  · rwa [e]
  · rw [e]
    exact h.trans (deliver_extends ev t)

theorem syscommonByte_extends (s : State) : Extends s (syscommonByte s) := by
  simp [syscommonByte]

theorem statusByte_extends (st : Byte) (s : State) : Extends s (statusByte st s) := by
  unfold statusByte
  simp only
  split
  · exact Extends.dispatch (by simp) _ _ _
  · simp

theorem dataByte_extends (b : Data7) (s : State) : Extends s (dataByte b s) := by
  unfold dataByte
  split
  · split
    · simp
    · split <;> simp
  · split
    · exact Extends.dispatch (by simp) _ _ _
    · simp
  · exact Extends.dispatch (by simp) _ _ _

theorem feedByte_extends (b : Byte) (s : State) : Extends s (feedByte b s) := by
  unfold feedByte
  split
  · exact deliver_extends _ s
  · split
    · exact syscommonByte_extends s
    · split
      · exact statusByte_extends b s
      · exact dataByte_extends _ s

theorem feedOf_extends (i : Instr) (s : State) : Extends s (feedOf i s) := by
  cases i with
  | midiRealtime r => exact deliver_extends _ s
  | midiSysCommon k => exact syscommonByte_extends s
  | midiNoteOff c => exact statusByte_extends _ s
  | midiNoteOn c => exact statusByte_extends _ s
  | midiStatusA c => exact statusByte_extends _ s
  | midiControlChange c => exact statusByte_extends _ s
  | midiStatusC c => exact statusByte_extends _ s
  | midiStatusD c => exact statusByte_extends _ s
  | midiPitchBend c => exact statusByte_extends _ s
  | midiData d => exact dataByte_extends d s
  | _ => exact Extends.refl s

theorem drainStep_extends {s t : State} (h : drainStep s = .ok t) : Extends s t := by
  obtain ⟨-, rfl⟩ | ⟨-, -, b, -, rfl⟩ := drainStep_ok.mp h
  · simp [endUpdate]
  · exact Extends.trans (by simp) (feedByte_extends b _)

/-- A command's own effect writes its registers and returns its response; only feeding a byte logs an event. -/
theorem bodyOf_extends {i : Instr} {s t : State} (h : bodyOf i s = .ok t) : Extends s t := by
  cases i with
  | qPush a => obtain ⟨-, rfl⟩ | ⟨-, -, rfl⟩ := bodyOf_qPush.mp h <;> simp
  | qPop => obtain ⟨-, rfl⟩ | ⟨-, -, b, -, rfl⟩ := bodyOf_qPop.mp h <;> simp
  | qPeek => obtain ⟨-, rfl⟩ | ⟨-, -, b, -, rfl⟩ := bodyOf_qPeek.mp h <;> simp
  | topUpdate => exact drainStep_extends h
  | decFeed b =>
    cases h
    exact (feedByte_extends b s).respond _
  | topRxError =>
    cases h
    split <;> simp
  | _ =>
    cases h
    simp

theorem exec_extends {i : Instr} {s t : State} (h : exec i s = .next t) : Extends s t := by
  obtain ⟨-, ⟨-, rfl⟩ | ⟨-, -, -, hbody⟩ | ⟨-, r, rfl⟩⟩ := exec_next h
  · exact feedOf_extends i s
  · exact bodyOf_extends hbody
  · simp

theorem turnResult_extends {s t : State} (h : turnResult s = .next t) : Extends s t := by
  by_cases hd : s.issuer = .C ∧ s.busy = true
  · obtain ⟨hissuer, hbusy⟩ := hd
    obtain ⟨-, e⟩ | ⟨-, -, b, -, e⟩ | ⟨-, -, f, e⟩ := turnResult_drain hbusy hissuer <;> rw [e] at h
    · cases h
      simp [endUpdate]
    · exact Extends.trans (by simp) (exec_extends h)
    · cases h
  · obtain ⟨-, e⟩ | ⟨w, ws, -, ⟨i, -, e⟩ | ⟨-, -, e⟩⟩ := turnResult_command hd <;> rw [e] at h
    · cases h
      simp
    · exact Extends.trans (by simp) (exec_extends h)
    · cases h
      simp

theorem step_extends {s t : State} (h : step s = .next t) : Extends s t := by
  obtain ⟨-, -, a, rest, -, hturn⟩ := step_next h
  exact Extends.trans (by simp) (turnResult_extends hturn)

end Sys2Proof.Machine

namespace Sys2Proof.Proofs
open Sys2Proof.Machine

/-- Settles O58: by the one thing every step can do, a turn taken with no fault recorded, which extends the logs. -/
theorem parametersFixedAndLogsGrow : Obligations.ParametersFixedAndLogsGrow := by
  intro s t h
  obtain ⟨hcfg, ⟨l, hl⟩, hresp⟩ := step_extends h
  obtain ⟨-, hfault, -⟩ := step_next h
  refine ⟨hcfg, ⟨l, hl.symm⟩, fun a => ?_, fun _ => hfault⟩
  obtain ⟨r, hr⟩ := hresp a
  exact ⟨r, hr.symm⟩

/-- Settles O2: block reset is `State.resetWith` of `Params.default`, the table of 00_scope.md R6, field by field. -/
theorem resetTakesDefaultParameters : Obligations.ResetTakesDefaultParameters :=
  ⟨rfl, rfl, rfl, rfl, rfl, rfl, rfl, rfl, rfl, rfl, rfl⟩

/-- Settles O3: a parameter outside its range fails the check that stands before a reset state and before every step. -/
theorem illegalConfigurationRefused : Obligations.IllegalConfigurationRefused := by
  constructor
  · intro p hp
    refine launch_illegal (Bool.eq_false_iff.mpr fun hlegal => ?_)
    have := launchLegal_ranges hlegal
    omega
  · intro s hs
    refine step_illegal (Bool.eq_false_iff.mpr fun hlegal => ?_)
    have := legal_qcap_range hlegal
    omega

end Sys2Proof.Proofs
end

section
/-! The machine's invariant (10_state.md R21 to R47): every update, every instruction and every step keeps it. -/

namespace Sys2Proof.Machine

/-- The queue's invariant speaks of the capacity and the queue only. -/
theorem QueueInv.congr {s u : State} (h : QueueInv s) (hc : u.cfg = s.cfg) (hq : u.q = s.q) : QueueInv u := by
  refine ⟨?_, ?_, ?_, ?_, ?_⟩
  · rw [hq, hc]
    exact h.wi_lt
  · rw [hq, hc]
    exact h.ri_lt
  · rw [hq]
    exact h.wf
  · rw [hq, hc]
    exact h.inRange
  · have hslots : queuedSlots u = queuedSlots s := by simp [queuedSlots, qCount, hc, hq]
    rw [hslots, hq]
    exact h.written

/-- The invariant speaks of the parameters and the block's state only: not of the fault register, the ports, the turns
or the issuer. -/
theorem Inv.congr {s u : State} (h : Inv s) (hc : u.cfg = s.cfg := by simp) (hq : u.q = s.q := by simp)
    (hd : u.d = s.d := by simp) (ht : u.t = s.t := by simp) (he : u.events = s.events := by simp)
    (hb : u.busy = s.busy := by simp) : Inv u where
  legal := hc ▸ h.legal
  queue := h.queue.congr hc hq
  decoder := hd ▸ h.decoder
  tracker := hc ▸ ht ▸ h.tracker
  events := he ▸ h.events
  busy := hc ▸ hb ▸ h.busy

theorem Inv.withQ {s : State} (h : Inv s) {q : Queue} (hq : QueueInv (s.withQ q)) : Inv (s.withQ q) :=
  ⟨h.legal, hq, h.decoder, h.tracker, h.events, h.busy⟩

theorem Inv.withD {s : State} (h : Inv s) {d : Decoder} (hd : DecoderInv d) : Inv (s.withD d) :=
  ⟨h.legal, h.queue.congr rfl rfl, hd, h.tracker, h.events, h.busy⟩

theorem Inv.withT {s : State} (h : Inv s) {t : Tracker} (ht : TrackerInv s.cfg.trkCap t) : Inv (s.withT t) :=
  ⟨h.legal, h.queue.congr rfl rfl, h.decoder, ht, h.events, h.busy⟩

theorem Inv.withEvents {s : State} (h : Inv s) {l : List Event} (hl : ∀ e ∈ l, eventOk e = true) :
    Inv (s.withEvents l) :=
  ⟨h.legal, h.queue.congr rfl rfl, h.decoder, h.tracker, hl, h.busy⟩

theorem Inv.withBusy {s : State} (h : Inv s) {b : Bool} (hb : b = true → s.cfg.feedPath = .queued) :
    Inv (s.withBusy b) :=
  ⟨h.legal, h.queue.congr rfl rfl, h.decoder, h.tracker, h.events, hb⟩

theorem Inv.respond {s : State} (h : Inv s) (r : RespWord) : Inv (respond r s) := h.congr

theorem Inv.raiseFault {s : State} (h : Inv s) (r : Reason) (w : CmdWord) : Inv (raiseFault r w s) := h.congr

theorem Inv.atTurn {s : State} (h : Inv s) (a : Agent) (rest : List Agent) : Inv (atTurn a rest s) := h.congr

theorem Inv.taken {s : State} (h : Inv s) (a : Agent) (ws : List CmdWord) : Inv (taken a ws s) := h.congr

/-- The end of an update (43_top_level.md R200). -/
theorem Inv.endUpdate {s : State} (h : Inv s) : Inv (endUpdate s) :=
  (h.withBusy (by simp)).respond _

/-- `Q_INIT` empties the queue, so that no slot is queued (40_byte_queue.md R100). -/
theorem QueueInv.init {s : State} (h : QueueInv s) : QueueInv (s.withQ { s.q with wi := 0, ri := 0 }) := by
  have hpos : 0 < s.cfg.qcap := Nat.zero_lt_of_lt h.wi_lt
  refine ⟨hpos, hpos, h.wf, h.inRange, ?_⟩
  rw [queuedSlots_empty rfl]
  simp

theorem qEmpty_eq_false {s : State} : qEmpty s = false ↔ s.q.wi ≠ s.q.ri := by
  simp [qEmpty]

theorem qFull_eq_false {s : State} : qFull s = false ↔ advance s.cfg.qcap s.q.wi ≠ s.q.ri := by
  simp [qFull]

/-! Input bytes -/

theorem Inv.deliver {s : State} (h : Inv s) {ev : Event} (hev : eventOk ev = true) : Inv (deliver ev s) := by
  rw [deliver_frame]
  exact (h.withT (deliver_tracker_inv h.tracker)).withEvents (deliver_events_ok hev h.events)

theorem Inv.dispatch {s : State} (h : Inv s) (st : Byte) (d1 d2 : Data7) : Inv (dispatch st d1 d2 s) := by
  rw [dispatch_frame]
  exact (h.withT (dispatch_tracker_inv h.tracker)).withEvents (dispatch_events_ok h.events)

theorem Inv.realtimeByte {s : State} (h : Inv s) {b : Byte} (hb : 0xF8#8 ≤ b) : Inv (realtimeByte b s) := by
  have hle : 0xF8 ≤ b.toNat := hb
  exact h.deliver (by simp [eventOk, hle])

theorem Inv.syscommonByte {s : State} (h : Inv s) : Inv (syscommonByte s) := by
  unfold Machine.syscommonByte
  split
  · exact h.withD (decoderReset_inv h.decoder)
  · exact h.withD (parserClear_inv h.decoder)

/-- A message ends, or its data bytes are stored, with the parse state IDLE. -/
theorem DecoderInv.idle {d : Decoder} (h : DecoderInv d) (d1 d2 : Data7) :
    DecoderInv { d with d1 := d1, d2 := d2, state := .idle } :=
  ⟨h.rs_ok, h.cs_ok, h.exp_ok, fun hn => absurd rfl hn, h.chan_ok, h.cb_ok⟩

/-- A channel status byte becomes the running status and the status in progress (41_message_decoder.md R132). -/
theorem Inv.statusByte {s : State} (h : Inv s) {st : Byte} (hst : isChannelStatus st = true) :
    Inv (statusByte st s) := by
  have hd := h.decoder
  have hexp := (expectedCount_cases st).symm
  unfold Machine.statusByte
  simp only
  split
  · refine Inv.dispatch (h.withD ?_) _ _ _
    exact ⟨.inr hst, .inr hst, hexp, fun hn => absurd rfl hn, hd.chan_ok, hd.cb_ok⟩
  · rename_i hne
    have htwo := hexp.resolve_left hne
    exact h.withD ⟨.inr hst, .inr hst, hexp, fun _ => ⟨htwo, hst, htwo⟩, hd.chan_ok, hd.cb_ok⟩

/-- A data byte starts, continues or completes the message in progress (41_message_decoder.md R133 to R137). -/
theorem Inv.dataByte {s : State} (h : Inv s) (b : Data7) : Inv (dataByte b s) := by
  have hd := h.decoder
  unfold Machine.dataByte
  split
  case h_1 =>
    split
    · exact h.withD (parserClear_inv hd)
    · rename_i hrs
      have hst := hd.rs_ok.resolve_left hrs
      split
      · rename_i htwo
        exact h.withD ⟨hd.rs_ok, hd.rs_ok, .inr rfl, fun _ => ⟨rfl, hst, htwo⟩, hd.chan_ok, hd.cb_ok⟩
      · exact h.withD ⟨hd.rs_ok, hd.rs_ok, .inl rfl, fun hn => absurd rfl hn, hd.chan_ok, hd.cb_ok⟩
  case h_2 hstate =>
    split
    · exact Inv.dispatch (h.withD (hd.idle _ _)) _ _ _
    · have haw := hd.awaiting (by simp [hstate])
      exact h.withD ⟨hd.rs_ok, hd.cs_ok, hd.exp_ok, fun _ => haw, hd.chan_ok, hd.cb_ok⟩
  case h_3 =>
    exact Inv.dispatch (h.withD (hd.idle _ _)) _ _ _

/-- A byte from 0x80 to 0xEF is a channel status byte. -/
theorem isChannelStatus_of_bit7 {b : Byte} (hlt : ¬ 0xF0#8 ≤ b) (hbit : b.extractLsb' 7 1 = 1#1) :
    isChannelStatus b = true := by
  have hge : 0x80 ≤ b.toNat := by
    have hnat := congrArg BitVec.toNat hbit
    simp only [BitVec.extractLsb'_toNat, Nat.shiftRight_eq_div_pow, BitVec.toNat_ofNat] at hnat
    omega
  simp only [BitVec.le_def, BitVec.toNat_ofNat] at hlt
  simp only [isChannelStatus, BitVec.le_def, BitVec.toNat_ofNat, Bool.and_eq_true, decide_eq_true_eq]
  omega

theorem Inv.feedByte {s : State} (h : Inv s) (b : Byte) : Inv (feedByte b s) := by
  unfold Machine.feedByte
  split
  · exact h.realtimeByte ‹_›
  · split
    · exact h.syscommonByte
    · split
      · exact h.statusByte (isChannelStatus_of_bit7 ‹_› ‹_›)
      · exact h.dataByte _

theorem Inv.feedOf {s : State} (h : Inv s) (i : Instr) : Inv (feedOf i s) := by
  cases i with
  | midiRealtime r =>
    have hle : ∀ r : BitVec 3, 0xF8#8 ≤ (0b11111#5 ++ r : BitVec 8) := by decide
    exact h.realtimeByte (hle r)
  | midiSysCommon k => exact h.syscommonByte
  | midiNoteOff c => exact h.statusByte (by revert c; decide)
  | midiNoteOn c => exact h.statusByte (by revert c; decide)
  | midiStatusA c => exact h.statusByte (by revert c; decide)
  | midiControlChange c => exact h.statusByte (by revert c; decide)
  | midiStatusC c => exact h.statusByte (by revert c; decide)
  | midiStatusD c => exact h.statusByte (by revert c; decide)
  | midiPitchBend c => exact h.statusByte (by revert c; decide)
  | midiData d => exact h.dataByte d
  | _ => exact h

/-! Commands -/

/-- `TOP_UPDATE`, admitted only where the bytes are queued, feeds the popped byte or ends. -/
theorem Inv.drainStep {s t : State} (h : Inv s) (hq : s.cfg.feedPath = .queued) (ht : drainStep s = .ok t) :
    Inv t := by
  obtain ⟨-, rfl⟩ | ⟨hne, -, b, -, rfl⟩ := drainStep_ok.mp ht
  · exact h.endUpdate
  · exact ((h.withQ (h.queue.pop (qEmpty_eq_false.mp hne))).withBusy fun _ => hq).feedByte b

/-- A channel operand in range is a channel (30_encoding.md R90). -/
theorem operandChannel_range {a : Byte} (h : (Instr.decSetChannel a).wellFormed = true) :
    1 ≤ (operandChannel a).toNat ∧ (operandChannel a).toNat ≤ 16 := by
  simp only [Instr.wellFormed, decide_eq_true_eq] at h
  simp only [operandChannel, BitVec.toNat_setWidth]
  omega

theorem targetOf_eq_tracker {b : Byte} : targetOf b = some .tracker ↔ b = 2#8 := by
  unfold targetOf
  split_ifs <;> simp_all

/-- The target TRACKER is given to the two note kinds only (30_encoding.md R90). -/
theorem kind_of_tracker_target {a b : Byte} {k : Kind} (h : (Instr.decSetCallback a b).wellFormed = true)
    (hk : kindOf a = some k) (hb : targetOf b = some .tracker) : k = .noteOn ∨ k = .noteOff := by
  obtain rfl := targetOf_eq_tracker.mp hb
  simp only [Instr.wellFormed, decide_eq_true_eq] at h
  obtain ha | ha := h.2.2 rfl
  · obtain rfl : a = 0#8 := BitVec.eq_of_toNat_eq ha
    exact .inl (Option.some.inj hk).symm
  · obtain rfl : a = 1#8 := BitVec.eq_of_toNat_eq ha
    exact .inr (Option.some.inj hk).symm

theorem setCallback_inv {a b : Byte} {d : Decoder} (hw : (Instr.decSetCallback a b).wellFormed = true)
    (h : DecoderInv d) : DecoderInv (setCallback a b d) := by
  unfold setCallback
  split
  · rename_i k t hk ht
    refine ⟨h.rs_ok, h.cs_ok, h.exp_ok, h.awaiting, h.chan_ok, ?_⟩
    obtain ⟨hcc, hpb, hrt⟩ := h.cb_ok
    have htracker : t = .tracker → k = .noteOn ∨ k = .noteOff := by
      rintro rfl
      exact kind_of_tracker_target hw hk ht
    cases k with
    | noteOn => exact ⟨hcc, hpb, hrt⟩
    | noteOff => exact ⟨hcc, hpb, hrt⟩
    | cc => exact ⟨fun e => by simpa using htracker e, hpb, hrt⟩
    | pb => exact ⟨hcc, fun e => by simpa using htracker e, hrt⟩
    | rt => exact ⟨hcc, hpb, fun e => by simpa using htracker e⟩
  · exact h

/-- The own effect of an admitted command with operands in range keeps the invariant. -/
theorem Inv.bodyOf {i : Instr} {s t : State} (h : Inv s) (ha : admits s.cfg s.issuer i = true)
    (hw : i.wellFormed = true) (ht : bodyOf i s = .ok t) : Inv t := by
  have hd := h.decoder
  cases i with
  | qInit =>
    cases ht
    exact (h.withQ h.queue.init).respond _
  | qPush a =>
    obtain ⟨-, rfl⟩ | ⟨hfull, -, rfl⟩ := bodyOf_qPush.mp ht
    · exact h.respond _
    · exact (h.withQ (h.queue.push a (qFull_eq_false.mp hfull))).respond _
  | qPop =>
    obtain ⟨-, rfl⟩ | ⟨hne, -, b, -, rfl⟩ := bodyOf_qPop.mp ht
    · exact h.respond _
    · exact (h.withQ (h.queue.pop (qEmpty_eq_false.mp hne))).respond _
  | qPeek => obtain ⟨-, rfl⟩ | ⟨-, -, b, -, rfl⟩ := bodyOf_qPeek.mp ht <;> exact h.respond _
  | decFeed b =>
    cases ht
    exact (h.feedByte b).respond _
  | decReset =>
    cases ht
    exact (h.withD (decoderReset_inv hd)).respond _
  | decSetChannel a =>
    cases ht
    refine Inv.respond (h.withD ?_) _
    exact ⟨hd.rs_ok, hd.cs_ok, hd.exp_ok, hd.awaiting, operandChannel_range hw, hd.cb_ok⟩
  | decSetOmni a =>
    cases ht
    refine Inv.respond (h.withD ?_) _
    exact ⟨hd.rs_ok, hd.cs_ok, hd.exp_ok, hd.awaiting, hd.chan_ok, hd.cb_ok⟩
  | decSetCallback a b =>
    cases ht
    exact (h.withD (setCallback_inv hw hd)).respond _
  | trkNoteOn a b =>
    cases ht
    exact (h.withT (trackerNoteOn_inv _ _ h.tracker)).respond _
  | trkNoteOff a =>
    cases ht
    exact (h.withT (trackerNoteOff_inv _ h.tracker)).respond _
  | trkReset =>
    cases ht
    exact (h.withT (trackerReset_inv _)).respond _
  | topUpdate =>
    simp only [admits, Bool.and_eq_true, beq_iff_eq] at ha
    exact h.drainStep ha.1 ht
  | topRxError =>
    cases ht
    have hreset := h.withD (decoderReset_inv hd)
    split
    · exact (hreset.withT (trackerReset_inv _)).respond _
    · exact hreset.respond _
  | _ =>
    cases ht
    exact h.congr

/-! The step -/

theorem Inv.exec {i : Instr} {s t : State} (h : Inv s) (ht : exec i s = .next t) : Inv t := by
  obtain ⟨-, ⟨-, rfl⟩ | ⟨-, ha, hw, hbody⟩ | ⟨-, r, rfl⟩⟩ := exec_next ht
  · exact h.feedOf i
  · exact h.bodyOf ha (operandsInRange_eq_wellFormed i ▸ hw) hbody
  · exact h.raiseFault _ _

theorem Inv.turnResult {s t : State} (h : Inv s) (ht : turnResult s = .next t) : Inv t := by
  by_cases hdrain : s.issuer = .C ∧ s.busy = true
  · obtain ⟨hissuer, hbusy⟩ := hdrain
    obtain ⟨-, e⟩ | ⟨hne, -, b, -, e⟩ | ⟨-, -, f, e⟩ := turnResult_drain hbusy hissuer <;> rw [e] at ht
    · cases ht
      exact h.endUpdate
    · exact (h.withQ (h.queue.pop (qEmpty_eq_false.mp hne))).exec ht
    · cases ht
  · obtain ⟨-, e⟩ | ⟨w, ws, -, ⟨i, -, e⟩ | ⟨-, -, e⟩⟩ := turnResult_command hdrain <;> rw [e] at ht
    · cases ht
      exact h
    · exact (h.taken _ _).exec ht
    · cases ht
      exact (h.taken _ _).raiseFault _ _

theorem Inv.step {s t : State} (h : Inv s) (ht : step s = .next t) : Inv t := by
  obtain ⟨-, -, a, rest, -, hturn⟩ := step_next ht
  exact (h.atTurn a rest).turnResult hturn

end Sys2Proof.Machine

namespace Sys2Proof.Proofs
open Sys2Proof.Machine

/-- Settles O5: a step takes a turn, a turn drains or runs one command, and each register an instruction writes keeps its
own part of the invariant. -/
theorem stepKeepsInvariant : Obligations.StepKeepsInvariant := fun _ _ h ht => h.step ht

end Sys2Proof.Proofs
end

section
/-! Block reset (10_state.md R55): the registers' values, and the invariant at the start of every launch. -/

namespace Sys2Proof.Machine

theorem launch_next {p : LaunchParams} {t : State} :
    launch p = .next t ↔ launchLegal p = true ∧ t = State.resetWith (paramsOf p) := by
  cases hl : launchLegal p <;> simp [launch, hl, eq_comm]

/-- A legal launch's numbers fit the registers that hold them (log entry 8). -/
theorem launchLegal_widths {p : LaunchParams} (h : launchLegal p = true) :
    (paramsOf p).defaultNote.toNat = p.defaultNote ∧ (paramsOf p).initChannel.toNat = p.initChannel := by
  simp only [launchLegal, Bool.and_eq_true, decide_eq_true_eq] at h
  simp only [paramsOf, BitVec.toNat_ofNat]
  omega

theorem paramsOf_legal {p : LaunchParams} (h : launchLegal p = true) : (paramsOf p).legal = true := by
  obtain ⟨-, hchan⟩ := launchLegal_widths h
  simp only [launchLegal, Bool.and_eq_true, decide_eq_true_eq] at h
  simp only [Params.legal, hchan, Bool.and_eq_true, decide_eq_true_eq]
  simp only [paramsOf]
  omega

theorem legal_initChannel_range {p : Params} (h : p.legal = true) :
    1 ≤ p.initChannel.toNat ∧ p.initChannel.toNat ≤ 16 := by
  simp only [Params.legal, Bool.and_eq_true, decide_eq_true_eq] at h
  omega

/-- Block reset with legal parameters: the queue, the tracker and the event log are empty and the decoder is idle. -/
theorem resetWith_inv {p : Params} (h : p.legal = true) : Inv (State.resetWith p) where
  legal := h
  queue := by
    have hpos : 0 < p.qcap := Nat.lt_of_lt_of_le Nat.two_pos (legal_qcap_range h).1
    refine ⟨hpos, hpos, List.Pairwise.nil, by simp, ?_⟩
    rw [queuedSlots_empty rfl]
    simp
  decoder := by
    refine ⟨.inl rfl, .inl rfl, .inl rfl, fun hn => absurd rfl hn, legal_initChannel_range h, ?_⟩
    simp [State.resetWith]
  tracker := trackerReset_inv p
  events := by simp
  busy := by simp

end Sys2Proof.Machine

namespace Sys2Proof.Proofs
open Sys2Proof.Machine

/-- Settles O1: a legal launch answers block reset with its parameters, whose notes and channel fit their registers. -/
theorem launchPutsResetValues : Obligations.LaunchPutsResetValues := by
  intro p hp
  obtain ⟨hnote, hchan⟩ := launchLegal_widths hp
  refine ⟨_, launch_next.mpr ⟨hp, rfl⟩, ?_⟩
  simp only [gate_eq_false]
  exact ⟨rfl, rfl, memGet_nil, rfl, rfl, rfl, rfl, rfl, rfl, hchan, rfl, rfl, rfl, rfl, rfl, rfl, rfl, hnote, rfl, rfl,
    rfl, rfl, hnote⟩

/-- Settles O4: the default parameters and those of every launch are legal, and block reset with legal parameters has the
invariant. -/
theorem launchHasInvariant : Obligations.LaunchHasInvariant := by
  refine ⟨resetWith_inv rfl, fun p t h => ?_⟩
  obtain ⟨hlegal, rfl⟩ := launch_next.mp h
  exact resetWith_inv (paramsOf_legal hlegal)

end Sys2Proof.Proofs
end

section
/-! The invariant excludes the model's own faults (10_state.md R26): every turn is defined. -/

namespace Sys2Proof.Machine

/-- From the queue's invariant every command's own effect is defined: only the slots at the read and at the write index
are accessed, and these exist; the read one is written. -/
theorem bodyOf_total {s : State} (h : QueueInv s) (i : Instr) : ∃ t, bodyOf i s = .ok t := by
  have holdest : qEmpty s = false → ∃ b, memGet s.q.mem s.q.ri = some b :=
    fun he => oldest_written h (qEmpty_eq_false.mp he)
  cases i with
  | qPush a =>
    cases hfull : qFull s
    · exact ⟨_, bodyOf_qPush.mpr (.inr ⟨hfull, h.wi_lt, rfl⟩)⟩
    · exact ⟨_, bodyOf_qPush.mpr (.inl ⟨hfull, rfl⟩)⟩
  | qPop =>
    cases he : qEmpty s
    · obtain ⟨b, hb⟩ := holdest he
      exact ⟨_, bodyOf_qPop.mpr (.inr ⟨he, h.ri_lt, b, hb, rfl⟩)⟩
    · exact ⟨_, bodyOf_qPop.mpr (.inl ⟨he, rfl⟩)⟩
  | qPeek =>
    cases he : qEmpty s
    · obtain ⟨b, hb⟩ := holdest he
      exact ⟨_, bodyOf_qPeek.mpr (.inr ⟨he, h.ri_lt, b, hb, rfl⟩)⟩
    · exact ⟨_, bodyOf_qPeek.mpr (.inl ⟨he, rfl⟩)⟩
  | topUpdate =>
    cases he : qEmpty s
    · obtain ⟨b, hb⟩ := holdest he
      exact ⟨_, drainStep_ok.mpr (.inr ⟨he, h.ri_lt, b, hb, rfl⟩)⟩
    · exact ⟨_, drainStep_ok.mpr (.inl ⟨he, rfl⟩)⟩
  | _ => exact ⟨_, rfl⟩

/-- A command with no fault recorded answers a next state where its own effect does. -/
theorem command_total {i : Instr} {body : State → Except Fault State} {s : State} (hf : s.fault = none)
    (hbody : ∃ t, body s = .ok t) : ∃ t, command i body s = .next t := by
  obtain ⟨t, ht⟩ := hbody
  cases ha : admits s.cfg s.issuer i
  · exact ⟨_, command_next.mpr ⟨hf, .inr (.inr ⟨ha, rfl⟩)⟩⟩
  · cases ho : operandsInRange i
    · exact ⟨_, command_next.mpr ⟨hf, .inr (.inl ⟨ha, ho, rfl⟩)⟩⟩
    · exact ⟨t, command_next.mpr ⟨hf, .inl ⟨ha, ho, ht⟩⟩⟩

theorem exec_total {s : State} (h : QueueInv s) (hf : s.fault = none) (i : Instr) : ∃ t, exec i s = .next t := by
  cases hb : isInputByte i
  · rw [exec_command s hb]
    exact command_total hf (bodyOf_total h i)
  · rw [exec_inputByte s hb]
    exact ⟨_, inputByte_next.mpr ⟨hf, rfl⟩⟩

theorem turnResult_total {s : State} (h : QueueInv s) (hf : s.fault = none) : ∃ t, turnResult s = .next t := by
  by_cases hdrain : s.issuer = .C ∧ s.busy = true
  · obtain ⟨hissuer, hbusy⟩ := hdrain
    obtain ⟨-, e⟩ | ⟨hne, -, b, -, e⟩ | ⟨hne, hmissing, -⟩ := turnResult_drain hbusy hissuer
    · exact ⟨_, e⟩
    · rw [e]
      exact exec_total (h.pop (qEmpty_eq_false.mp hne)) hf _
    · obtain ⟨b, hb⟩ := oldest_written h (qEmpty_eq_false.mp hne)
      exact absurd ⟨h.ri_lt, by simp [hb]⟩ hmissing
  · obtain ⟨-, e⟩ | ⟨w, ws, -, ⟨i, -, e⟩ | ⟨-, -, e⟩⟩ := turnResult_command hdrain
    · exact ⟨_, e⟩
    · rw [e]
      exact exec_total (h.congr (by simp) (by simp)) (by simpa using hf) _
    · exact ⟨_, e⟩

end Sys2Proof.Machine

namespace Sys2Proof.Proofs
open Sys2Proof.Machine

/-- Settles O6: a step takes a turn, and under the queue's invariant every turn answers a next state. -/
theorem invariantExcludesModelFaults : Obligations.InvariantExcludesModelFaults := by
  intro s h hf f hstep
  obtain ⟨a, rest, -, hturn⟩ := step_fault hstep hf
  obtain ⟨t, ht⟩ := turnResult_total (h.atTurn a rest).queue (by simpa using hf)
  rw [ht] at hturn
  cases hturn

end Sys2Proof.Proofs
end

section
/-! Which instructions write which registers of the decoder (10_state.md R35). -/

namespace Sys2Proof.Machine

/-- The configuration registers of the decoder: the channel filter, the omni flag and the targets. -/
def configRegs (d : Decoder) : Channel × Bool × Callbacks := (d.chan, d.omni, d.cb)

theorem configRegs_eq_iff {d e : Decoder} :
    configRegs d = configRegs e ↔ d.chan = e.chan ∧ d.omni = e.omni ∧ d.cb = e.cb := by
  simp [configRegs]

theorem decoderReset_configRegs (d : Decoder) : configRegs (decoderReset d) = configRegs d := rfl

theorem realtimeByte_configRegs (b : Byte) (s : State) : configRegs (realtimeByte b s).d = configRegs s.d := by
  simp [realtimeByte]

theorem syscommonByte_configRegs (s : State) : configRegs (syscommonByte s).d = configRegs s.d := by
  unfold syscommonByte
  split <;> rfl

theorem statusByte_configRegs (st : Byte) (s : State) : configRegs (statusByte st s).d = configRegs s.d := by
  unfold statusByte
  simp only
  split <;> simp [configRegs]

theorem dataByte_configRegs (b : Data7) (s : State) : configRegs (dataByte b s).d = configRegs s.d := by
  unfold dataByte
  split
  · split
    · rfl
    · split <;> rfl
  · split <;> simp [configRegs]
  · simp [configRegs]

theorem feedByte_configRegs (b : Byte) (s : State) : configRegs (feedByte b s).d = configRegs s.d := by
  unfold feedByte
  split
  · exact realtimeByte_configRegs _ s
  · split
    · exact syscommonByte_configRegs s
    · split
      · exact statusByte_configRegs _ s
      · exact dataByte_configRegs _ s

theorem feedOf_configRegs (i : Instr) (s : State) : configRegs (feedOf i s).d = configRegs s.d := by
  cases i with
  | midiRealtime r => exact realtimeByte_configRegs _ s
  | midiSysCommon k => exact syscommonByte_configRegs s
  | midiNoteOff c => exact statusByte_configRegs _ s
  | midiNoteOn c => exact statusByte_configRegs _ s
  | midiStatusA c => exact statusByte_configRegs _ s
  | midiControlChange c => exact statusByte_configRegs _ s
  | midiStatusC c => exact statusByte_configRegs _ s
  | midiStatusD c => exact statusByte_configRegs _ s
  | midiPitchBend c => exact statusByte_configRegs _ s
  | midiData d => exact dataByte_configRegs d s
  | _ => rfl

theorem drainStep_configRegs {s t : State} (h : drainStep s = .ok t) : configRegs t.d = configRegs s.d := by
  obtain ⟨-, rfl⟩ | ⟨-, -, b, -, rfl⟩ := drainStep_ok.mp h
  · simp [endUpdate]
  · exact feedByte_configRegs b _

/-- The instructions that feed bytes to the decoder or reset it. -/
def FeedsOrResets (i : Instr) : Prop :=
  isInputByte i = true ∨ (∃ a, i = .decFeed a) ∨ i = .decReset ∨ i = .topUpdate ∨ i = .topRxError

/-- Everything an instruction can do to the decoder: nothing, write its parse registers by feeding or reset, or write
the one configuration register of a setter. -/
inductive DecoderWrite (i : Instr) (d d' : Decoder) : Prop where
  | unchanged (h : d' = d)
  | parse (hi : FeedsOrResets i) (h : configRegs d' = configRegs d)
  | channel (a : Byte) (ch : Channel) (hi : i = .decSetChannel a) (h : d' = { d with chan := ch })
  | omni (a : Byte) (o : Bool) (hi : i = .decSetOmni a) (h : d' = { d with omni := o })
  | callback (a b : Byte) (cb : Callbacks) (hi : i = .decSetCallback a b) (h : d' = { d with cb := cb })

theorem setCallback_writes_cb (a b : Byte) (d : Decoder) :
    setCallback a b d = { d with cb := (setCallback a b d).cb } := by
  unfold setCallback
  split <;> rfl

theorem bodyOf_decoderWrite {i : Instr} {s t : State} (h : bodyOf i s = .ok t) : DecoderWrite i s.d t.d := by
  cases i with
  | qPush a => obtain ⟨-, rfl⟩ | ⟨-, -, rfl⟩ := bodyOf_qPush.mp h <;> exact .unchanged (by simp)
  | qPop => obtain ⟨-, rfl⟩ | ⟨-, -, b, -, rfl⟩ := bodyOf_qPop.mp h <;> exact .unchanged (by simp)
  | qPeek => obtain ⟨-, rfl⟩ | ⟨-, -, b, -, rfl⟩ := bodyOf_qPeek.mp h <;> exact .unchanged (by simp)
  | decFeed a =>
    cases h
    exact .parse (by simp [FeedsOrResets]) (by simpa using feedByte_configRegs a s)
  | decReset =>
    cases h
    exact .parse (by simp [FeedsOrResets]) (by simpa using decoderReset_configRegs s.d)
  | topUpdate => exact .parse (by simp [FeedsOrResets]) (drainStep_configRegs h)
  | topRxError =>
    cases h
    refine .parse (by simp [FeedsOrResets]) ?_
    split <;> simpa using decoderReset_configRegs s.d
  | decSetChannel a =>
    cases h
    exact .channel a _ rfl (respond_d _ _)
  | decSetOmni a =>
    cases h
    exact .omni a _ rfl (respond_d _ _)
  | decSetCallback a b =>
    cases h
    exact .callback a b _ rfl ((respond_d _ _).trans (setCallback_writes_cb a b s.d))
  | _ =>
    cases h
    exact .unchanged (by simp)

theorem exec_decoderWrite {i : Instr} {s t : State} (h : exec i s = .next t) : DecoderWrite i s.d t.d := by
  obtain ⟨-, ⟨hb, rfl⟩ | ⟨-, -, -, hbody⟩ | ⟨-, r, rfl⟩⟩ := exec_next h
  · exact .parse (.inl hb) (feedOf_configRegs i s)
  · exact bodyOf_decoderWrite hbody
  · exact .unchanged rfl

end Sys2Proof.Machine

namespace Sys2Proof.Proofs
open Sys2Proof.Machine

/-- Settles O41: an instruction that writes a register of the decoder is one of those that may. -/
theorem decoderWriteDiscipline : Obligations.DecoderWriteDiscipline := by
  intro i s t h
  cases exec_decoderWrite h with
  | unchanged e => simp [e]
  | parse hi e =>
    obtain ⟨hchan, homni, hcb⟩ := configRegs_eq_iff.mp e
    exact ⟨fun _ => hi, fun hn => absurd hchan hn, fun hn => absurd homni hn, fun hn => absurd hcb hn⟩
  | channel a ch hi e => simp [hi, e, parseRegs]
  | omni a o hi e => simp [hi, e, parseRegs]
  | callback a b cb hi e => simp [hi, e, parseRegs]

/-- Settles O42: an input byte's effect is that of its class, which has this frame. -/
theorem inputByteFrame : Obligations.InputByteFrame := by
  intro i s t hb h
  rw [exec_inputByte s hb, inputByte_next] at h
  obtain ⟨-, rfl⟩ := h
  exact ⟨feedOf_frame i s, configRegs_eq_iff.mp (feedOf_configRegs i s)⟩

end Sys2Proof.Proofs
end

section
/-! What each agent's step leaves as it is (10_state.md R53), and the command a step runs (R50). -/

namespace Sys2Proof.Machine

/-- A command word that decodes is the encoding of its instruction. -/
theorem encode_of_decodeCmd {w : CmdWord} {i : Instr} (h : decodeCmd w = .ok i) : encode i = .cmd w := by
  have hw := cmdOf_fields w
  unfold decodeCmd at h
  cases hm : opcodeMap (opField w) with
  | none => simp [hm] at h
  | some r =>
    simp only [hm] at h
    obtain ⟨j, rfl, hj⟩ | ⟨f, rfl, hf⟩ | ⟨f, rfl, hf⟩ := opcodeMap_encodes hm
    · simp only at h
      split at h
      · rename_i hzero
        cases h
        rw [hj, ← hzero.1, ← hw]
        simp [hzero.1, hzero.2]
      · cases h
    · simp only at h
      split at h
      · rename_i hzero
        cases h
        rw [hf, ← hzero, hw]
      · cases h
    · cases h
      rw [hf, hw]

/-- The class of a byte is an input byte. -/
theorem decodeByte_isInputByte (b : Byte) : isInputByte (decodeByte b) = true := by
  unfold decodeByte
  split_ifs <;> rfl

/-- A response goes to the issuer's port only. -/
theorem respond_portP_of_C (r : RespWord) {s : State} (h : s.issuer = .C) : (respond r s).portP = s.portP := by
  simp [respond, h]

theorem respond_portC_of_P (r : RespWord) {s : State} (h : s.issuer = .P) : (respond r s).portC = s.portC := by
  simp [respond, h]

/-- What a step of P leaves as it is where bytes are queued: all that C owns. -/
structure KeepsConsumer (s t : State) : Prop where
  decoder : t.d = s.d
  tracker : t.t = s.t
  busy    : t.busy = s.busy
  events  : t.events = s.events
  ri      : t.q.ri = s.q.ri
  portC   : t.portC = s.portC

theorem KeepsConsumer.refl (s : State) : KeepsConsumer s s := ⟨rfl, rfl, rfl, rfl, rfl, rfl⟩

theorem KeepsConsumer.trans {s t u : State} (h : KeepsConsumer s t) (h' : KeepsConsumer t u) : KeepsConsumer s u :=
  ⟨h'.decoder.trans h.decoder, h'.tracker.trans h.tracker, h'.busy.trans h.busy, h'.events.trans h.events,
    h'.ri.trans h.ri, h'.portC.trans h.portC⟩

theorem KeepsConsumer.respond {s : State} (r : RespWord) (h : s.issuer = .P) : KeepsConsumer s (respond r s) :=
  ⟨by simp, by simp, by simp, by simp, by simp, respond_portC_of_P r h⟩

/-- The commands P may issue where bytes are queued (60_exceptions.md R226). -/
theorem admits_P_queued {p : Params} {i : Instr} (hq : p.feedPath = .queued) (hb : isInputByte i = false)
    (h : admits p .P i = true) : (∃ a, i = .qPush a) ∨ i = .qIsFull ∨ i = .qIsEmpty := by
  cases i <;> simp_all [admits, isInputByte, encode]

theorem exec_keepsConsumer {i : Instr} {s t : State} (hq : s.cfg.feedPath = .queued) (hP : s.issuer = .P)
    (hb : isInputByte i = false) (h : exec i s = .next t) : KeepsConsumer s t := by
  obtain ⟨-, ⟨hbyte, -⟩ | ⟨-, ha, -, hbody⟩ | ⟨-, r, rfl⟩⟩ := exec_next h
  · simp [hb] at hbyte
  · rw [hP] at ha
    obtain ⟨a, rfl⟩ | rfl | rfl := admits_P_queued hq hb ha
    · obtain ⟨-, rfl⟩ | ⟨-, -, rfl⟩ := bodyOf_qPush.mp hbody
      · exact .respond _ hP
      · exact ⟨by simp, by simp, by simp, by simp, by simp, respond_portC_of_P _ hP⟩
    · cases hbody
      exact .respond _ hP
    · cases hbody
      exact .respond _ hP
  · exact ⟨rfl, rfl, rfl, rfl, rfl, rfl⟩

theorem turnResult_keepsConsumer {s t : State} (hq : s.cfg.feedPath = .queued) (hP : s.issuer = .P)
    (h : turnResult s = .next t) : KeepsConsumer s t := by
  have htaken : ∀ ws, KeepsConsumer s (taken s.issuer ws s) := fun ws => by
    rw [hP]
    exact ⟨rfl, rfl, rfl, rfl, rfl, rfl⟩
  obtain ⟨-, e⟩ | ⟨w, ws, -, ⟨i, hi, e⟩ | ⟨-, -, e⟩⟩ := turnResult_command (s := s) (by simp [hP]) <;> rw [e] at h
  · cases h
    exact .refl s
  · exact (htaken ws).trans (exec_keepsConsumer (by simpa using hq) (by simpa using hP) (decodeCmd_not_byte hi) h)
  · cases h
    exact (htaken ws).trans ⟨rfl, rfl, rfl, rfl, rfl, rfl⟩

/-- What a step of C leaves as it is: the storage, P's port and, unless it may discard the queue (`Q_INIT`), the write
index. -/
structure KeepsProducer (init : Prop) (s t : State) : Prop where
  mem   : t.q.mem = s.q.mem
  portP : t.portP = s.portP
  wi    : ¬ init → t.q.wi = s.q.wi

theorem KeepsProducer.refl (init : Prop) (s : State) : KeepsProducer init s s := ⟨rfl, rfl, fun _ => rfl⟩

theorem KeepsProducer.trans {init : Prop} {s t u : State} (h : KeepsProducer init s t) (h' : KeepsProducer init t u) :
    KeepsProducer init s u :=
  ⟨h'.mem.trans h.mem, h'.portP.trans h.portP, fun hn => (h'.wi hn).trans (h.wi hn)⟩

theorem KeepsProducer.mono {init init' : Prop} {s t : State} (h : KeepsProducer init s t) (hi : init → init') :
    KeepsProducer init' s t :=
  ⟨h.mem, h.portP, fun hn => h.wi (fun h => hn (hi h))⟩

theorem endUpdate_keepsProducer (init : Prop) {s : State} (hC : s.issuer = .C) :
    KeepsProducer init s (endUpdate s) :=
  ⟨by simp [endUpdate], respond_portP_of_C _ hC, by simp [endUpdate]⟩

theorem drainStep_keepsProducer {s t : State} (hC : s.issuer = .C) (h : drainStep s = .ok t) :
    KeepsProducer False s t := by
  obtain ⟨-, rfl⟩ | ⟨-, -, b, -, rfl⟩ := drainStep_ok.mp h
  · exact endUpdate_keepsProducer _ hC
  · exact ⟨by simp, by simp, by simp⟩

theorem bodyOf_keepsProducer {i : Instr} {s t : State} (hC : s.issuer = .C) (ha : admits s.cfg .C i = true)
    (h : bodyOf i s = .ok t) : KeepsProducer (i = .qInit) s t := by
  cases i with
  | qInit =>
    cases h
    exact ⟨by simp, by simp [respond_portP_of_C, hC], by simp⟩
  | qPush a => simp [admits] at ha
  | qPop =>
    obtain ⟨-, rfl⟩ | ⟨-, -, b, -, rfl⟩ := bodyOf_qPop.mp h <;>
      exact ⟨by simp, by simp [respond_portP_of_C, hC], by simp⟩
  | qPeek =>
    obtain ⟨-, rfl⟩ | ⟨-, -, b, -, rfl⟩ := bodyOf_qPeek.mp h <;>
      exact ⟨by simp, by simp [respond_portP_of_C, hC], by simp⟩
  | decFeed b =>
    cases h
    exact ⟨by simp, by simp [respond_portP_of_C, hC], by simp⟩
  | topUpdate => exact (drainStep_keepsProducer hC h).mono False.elim
  | topRxError =>
    cases h
    split <;> exact ⟨by simp, by simp [respond_portP_of_C, hC], by simp⟩
  | _ =>
    cases h
    exact ⟨by simp, by simp [respond_portP_of_C, hC], by simp⟩

theorem exec_keepsProducer {i : Instr} {s t : State} (h : exec i s = .next t) (hC : s.issuer = .C) :
    KeepsProducer (i = .qInit) s t := by
  obtain ⟨-, ⟨-, rfl⟩ | ⟨-, ha, -, hbody⟩ | ⟨-, r, rfl⟩⟩ := exec_next h
  · rw [feedOf_frame]
    exact ⟨rfl, rfl, fun _ => rfl⟩
  · exact bodyOf_keepsProducer hC (hC ▸ ha) hbody
  · exact ⟨rfl, rfl, fun _ => rfl⟩

/-- A turn of C discards the queue only where the command word of `Q_INIT` is presented (30_encoding.md R88). -/
theorem turnResult_keepsProducer {s t : State} (hC : s.issuer = .C) (h : turnResult s = .next t) :
    KeepsProducer (∃ ws, s.portC.cmds = 0x100000#24 :: ws) s t := by
  by_cases hbusy : s.busy = true
  · obtain ⟨-, e⟩ | ⟨-, -, b, -, e⟩ | ⟨-, -, f, e⟩ := turnResult_drain hbusy hC <;> rw [e] at h
    · cases h
      exact endUpdate_keepsProducer _ hC
    · have hinit : decodeByte b ≠ .qInit := fun hd => by
        have hbyte := decodeByte_isInputByte b
        rw [hd] at hbyte
        cases hbyte
      obtain ⟨hmem, hportP, hwi⟩ := exec_keepsProducer h hC
      exact ⟨hmem, hportP, fun _ => hwi hinit⟩
    · cases h
  · have htaken : ∀ init ws, KeepsProducer init s (taken s.issuer ws s) := fun init ws => by
      rw [hC]
      exact ⟨rfl, rfl, fun _ => rfl⟩
    obtain ⟨-, e⟩ | ⟨w, ws, hcmds, ⟨i, hi, e⟩ | ⟨-, -, e⟩⟩ := turnResult_command (s := s) (by simp [hbusy]) <;>
      rw [e] at h
    · cases h
      exact .refl _ s
    · refine (htaken _ ws).trans ((exec_keepsProducer h (by simpa using hC)).mono ?_)
      rintro rfl
      have hw : w = 0x100000#24 := (Code.cmd.inj (encode_of_decodeCmd hi)).symm
      rw [hC, hw] at hcmds
      exact ⟨ws, hcmds⟩
    · cases h
      exact (htaken _ ws).trans ⟨rfl, rfl, fun _ => rfl⟩

end Sys2Proof.Machine

namespace Sys2Proof.Proofs
open Sys2Proof.Machine

/-- Settles O57: a step is a turn of the agent at the head of the turns, and a turn of each agent has its frame. -/
theorem agentsWriteOnlyTheirOwn : Obligations.AgentsWriteOnlyTheirOwn := by
  intro s t rest hq h
  obtain ⟨-, -, a, rest', hturns, hturn⟩ := step_next h
  rw [hturns]
  refine ⟨?_, ?_⟩ <;> rintro ⟨⟩
  · obtain ⟨hd, ht, hbusy, hevents, hri, hportC⟩ := turnResult_keepsConsumer (by simpa using hq) rfl hturn
    exact ⟨hd, ht, hbusy, hevents, hri, hportC⟩
  · obtain ⟨hmem, hportP, hwi⟩ := turnResult_keepsProducer rfl hturn
    exact ⟨hmem, hportP, fun hcmds => hwi (fun ⟨ws, hws⟩ => hcmds ws hws)⟩

/-- Settles O14: work is left, so the turn is taken, and the agent's turn runs the word at the head of its port. -/
theorem stepRunsPresentedCommand : Obligations.StepRunsPresentedCommand := by
  intro s a rest w ws i hlegal hf hturns hcmds hbusy hi
  have hport : (atTurn a rest s).port a = s.port a := by cases a <;> rfl
  have hwork : runEnded s = false := by
    cases a <;> simp only [State.port_P, State.port_C] at hcmds <;> simp [runEnded, hcmds]
  rw [step_turn hlegal hf hwork hturns]
  obtain ⟨hnil, -⟩ | ⟨w', ws', hcmds', hrun⟩ := turnResult_command (s := atTurn a rest s) hbusy
  · simp [hport, hcmds] at hnil
  · rw [atTurn_issuer, hport, hcmds] at hcmds'
    cases hcmds'
    obtain ⟨j, hj, e⟩ | ⟨err, herr, -⟩ := hrun
    · cases hi.symm.trans hj
      rw [e, atTurn_issuer, taken, hport]
      rfl
    · cases hi.symm.trans herr

end Sys2Proof.Proofs
end

section
/-! The computed values: the occupancy (10_state.md R25) and the sounding note (R44). -/

namespace Sys2Proof.Proofs
open Sys2Proof.Machine

/-- Settles O28: the count is the distance from the read to the write index around the buffer, in its two cases. -/
theorem occupancyConditions : Obligations.OccupancyConditions := by
  intro s _ hw hr
  have hcount := qCount_eq hw hr
  have hlt : qCount s < s.cfg.qcap := by split at hcount <;> omega
  have hadd := add_mod_of_lt hr hlt
  have hadvance := advance_eq hw
  simp only [qEmpty, qFull, beq_iff_eq]
  split at hcount <;> split at hadd <;> split at hadvance <;> omega

/-- Settles O49: `pitch` is the sounding note, which the tracker's invariant makes the latched note. -/
theorem soundingNoteIsLatched : Obligations.SoundingNoteIsLatched := by
  intro s h
  refine ⟨fun l x hheld => ?_, fun hheld => ?_, soundingNote_eq_latched h⟩
  · simp [pitch, soundingNote, hheld]
  · simp [pitch, soundingNote, hheld]

end Sys2Proof.Proofs
end

section
/-! The queue and its storage (20_memory.md): the first-in first-out list, who writes a slot, the commands that write
nothing. -/

namespace Sys2Proof.Machine

/-- A command whose checks pass answers a next state exactly where its own effect does. -/
theorem exec_admitted_iff {i : Instr} {s t : State} (hb : isInputByte i = false) (hw : i.wellFormed = true)
    (ha : Admitted i s) : exec i s = .next t ↔ bodyOf i s = .ok t := by
  obtain ⟨hf, hadmit⟩ := ha
  rw [exec_command s hb, command_admitted hf hadmit (operandsInRange_eq_wellFormed i ▸ hw), finish_next]

@[simp] theorem queuedBytes_respond (r : RespWord) (s : State) : queuedBytes (respond r s) = queuedBytes s :=
  queuedBytes_congr (by simp) (by simp)

theorem respond_resp_of_P (r : RespWord) {s : State} (h : s.issuer = .P) :
    (respond r s).portP.resp = s.portP.resp ++ [r] := by
  simpa [h] using respond_resp r s .P

theorem respond_resp_of_C (r : RespWord) {s : State} (h : s.issuer = .C) :
    (respond r s).portC.resp = s.portC.resp ++ [r] := by
  simpa [h] using respond_resp r s .C

/-- One slot stays free, so that a full queue holds `P_QCAP - 1` bytes (10_state.md R24, R25). -/
theorem queuedBytes_occupancy {s : State} (h : Inv s) :
    (queuedBytes s).length ≤ s.cfg.qcap - 1 ∧ (qFull s = true ↔ (queuedBytes s).length = s.cfg.qcap - 1) := by
  rw [queuedBytes_length h.queue]
  obtain ⟨hle, -, hfull, -⟩ :=
    Proofs.occupancyConditions s (legal_qcap_range h.legal).1 h.queue.wi_lt h.queue.ri_lt
  exact ⟨hle, hfull⟩

/-- `Q_PUSH` on the list (40_byte_queue.md R101, R107). -/
theorem qPush_appends {s : State} (h : Inv s) (hf : s.fault = none) (hP : s.issuer = .P) (a : Byte) :
    ∃ t, exec (.qPush a) s = .next t ∧
      (((queuedBytes s).length < s.cfg.qcap - 1 ∧ queuedBytes t = queuedBytes s ++ [a] ∧
          t.portP.resp = s.portP.resp ++ [1#16]) ∨
       ((queuedBytes s).length = s.cfg.qcap - 1 ∧ queuedBytes t = queuedBytes s ∧
          t.portP.resp = s.portP.resp ++ [0#16])) := by
  obtain ⟨hle, hcount⟩ := queuedBytes_occupancy h
  simp only [exec_admitted_iff (i := .qPush a) rfl rfl ⟨hf, by simp [admits, hP]⟩, bodyOf_qPush]
  cases hfull : qFull s
  · have hne : (queuedBytes s).length ≠ s.cfg.qcap - 1 := fun e => by simp [hcount.mpr e] at hfull
    refine ⟨_, .inr ⟨rfl, h.queue.wi_lt, rfl⟩, .inl ⟨by omega, ?_, respond_resp_of_P _ hP⟩⟩
    rw [queuedBytes_respond]
    exact queuedBytes_push a h.queue (qFull_eq_false.mp hfull)
  · exact ⟨_, .inl ⟨rfl, rfl⟩, .inr ⟨hcount.mp hfull, queuedBytes_respond _ s, respond_resp_of_P _ hP⟩⟩

/-- `Q_POP` on the list (40_byte_queue.md R102). -/
theorem qPop_removes_oldest {s : State} (h : Inv s) (hf : s.fault = none) (hC : s.issuer = .C) :
    ∃ t, exec .qPop s = .next t ∧
      ((queuedBytes s = [] ∧ queuedBytes t = [] ∧ t.portC.resp = s.portC.resp ++ [0#16]) ∨
       (∃ b rest, queuedBytes s = b :: rest ∧ queuedBytes t = rest ∧
          t.portC.resp = s.portC.resp ++ [0x01#8 ++ b])) := by
  simp only [exec_admitted_iff (i := .qPop) rfl rfl ⟨hf, by simp [admits, hC]⟩, bodyOf_qPop]
  cases hempty : qEmpty s
  · have hne := qEmpty_eq_false.mp hempty
    obtain ⟨b, hb⟩ := oldest_written h.queue hne
    exact ⟨_, .inr ⟨rfl, h.queue.ri_lt, b, hb, rfl⟩,
      .inr ⟨b, _, queuedBytes_pop h.queue hne hb, queuedBytes_respond _ _, respond_resp_of_C _ hC⟩⟩
  · have hnil : queuedBytes s = [] := queuedBytes_empty (by simpa [qEmpty] using hempty)
    exact ⟨_, .inl ⟨rfl, rfl⟩, .inl ⟨hnil, by simp [hnil], respond_resp_of_C _ hC⟩⟩

/-- `Q_INIT` on the list (40_byte_queue.md R100). -/
theorem qInit_empties {s : State} (hf : s.fault = none) (hC : s.issuer = .C) :
    ∃ t, exec .qInit s = .next t ∧ queuedBytes t = [] := by
  refine ⟨_, (exec_admitted_iff rfl rfl ⟨hf, by simp [admits, hC]⟩).mpr rfl, ?_⟩
  rw [queuedBytes_respond]
  exact queuedBytes_empty rfl

/-- No command's own effect but `Q_PUSH`'s writes the storage. -/
theorem bodyOf_keepsStorage {i : Instr} {s t : State} (hi : ∀ a, i ≠ .qPush a) (h : bodyOf i s = .ok t) :
    t.q.mem = s.q.mem := by
  cases i with
  | qPush a => exact absurd rfl (hi a)
  | qPop => obtain ⟨-, rfl⟩ | ⟨-, -, b, -, rfl⟩ := bodyOf_qPop.mp h <;> simp
  | qPeek => obtain ⟨-, rfl⟩ | ⟨-, -, b, -, rfl⟩ := bodyOf_qPeek.mp h <;> simp
  | topUpdate => obtain ⟨-, rfl⟩ | ⟨-, -, b, -, rfl⟩ := drainStep_ok.mp h <;> simp [endUpdate]
  | topRxError =>
    cases h
    split <;> simp
  | _ =>
    cases h
    simp

theorem exec_keepsStorage {i : Instr} {s t : State} (hi : ∀ a, i ≠ .qPush a) (h : exec i s = .next t) :
    t.q.mem = s.q.mem := by
  obtain ⟨-, ⟨-, rfl⟩ | ⟨-, -, -, hbody⟩ | ⟨-, r, rfl⟩⟩ := exec_next h
  · rw [feedOf_frame]
    rfl
  · exact bodyOf_keepsStorage hi hbody
  · rfl

/-- `Q_PUSH` leaves every slot but the one at the write index as it was, whether it stores its byte, drops it or records
a fault. -/
theorem qPush_keepsOtherSlots {a : Byte} {s t : State} (h : exec (.qPush a) s = .next t) {j : Nat}
    (hj : j ≠ s.q.wi) : memGet t.q.mem j = memGet s.q.mem j := by
  obtain ⟨-, ⟨hbyte, -⟩ | ⟨-, -, -, hbody⟩ | ⟨-, r, rfl⟩⟩ := exec_next h
  · cases hbyte
  · obtain ⟨-, rfl⟩ | ⟨-, -, rfl⟩ := bodyOf_qPush.mp hbody
    · simp
    · simpa using memGet_memSet_other s.q.mem a hj
  · rfl

/-- The read-only commands are commands without an operand. -/
theorem readOnly_command : ∀ i ∈ readOnlyCommands, isInputByte i = false ∧ i.wellFormed = true := by decide

/-- A read-only command's own effect is a response alone, and the parameters, the queue, the decoder and the tracker
determine it (20_memory.md R67). -/
theorem bodyOf_readOnly {i : Instr} {s t : State} (hi : i ∈ readOnlyCommands) (h : bodyOf i s = .ok t) :
    ∃ r, t = respond r s ∧
      ∀ u : State, u.cfg = s.cfg → u.q = s.q → u.d = s.d → u.t = s.t → bodyOf i u = .ok (respond r u) := by
  simp only [readOnlyCommands, List.mem_cons, List.not_mem_nil, or_false] at hi
  obtain rfl | hi := hi
  · obtain ⟨hempty, rfl⟩ | ⟨hempty, hlt, b, hb, rfl⟩ := bodyOf_qPeek.mp h
    · exact ⟨_, rfl, fun u _ hq _ _ => bodyOf_qPeek.mpr (.inl ⟨by simpa [qEmpty, hq] using hempty, rfl⟩)⟩
    · exact ⟨_, rfl, fun u hc hq _ _ => bodyOf_qPeek.mpr
        (.inr ⟨by simpa [qEmpty, hq] using hempty, hc ▸ hq ▸ hlt, b, hq ▸ hb, rfl⟩)⟩
  · obtain rfl | rfl | rfl | rfl | rfl | rfl | rfl := hi <;>
    · cases h
      exact ⟨_, rfl, fun u hc hq hd ht => by simp [bodyOf, qFull, qEmpty, gate, hc, hq, hd, ht]⟩

end Sys2Proof.Machine

namespace Sys2Proof.Proofs
open Sys2Proof.Machine

/-- Settles O29: the indices' occupancy is the list's length, and each queue command acts on the list. -/
theorem queueIsFifo : Obligations.QueueIsFifo := fun _ h hf =>
  ⟨(queuedBytes_occupancy h).1, fun a hP => qPush_appends h hf hP a, qPop_removes_oldest h hf, qInit_empties hf⟩

/-- Settles O30: the storage as a whole is kept but by a push, which writes one slot. -/
theorem onlyPushWritesStorage : Obligations.OnlyPushWritesStorage := by
  intro i s t h
  refine ⟨fun hi j => by rw [exec_keepsStorage hi h], ?_⟩
  rintro a rfl j hj
  exact qPush_keepsOtherSlots h hj

/-- Settles O56: the response depends on nothing that returning it changes. -/
theorem readOnlyCommandsIdempotent : Obligations.ReadOnlyCommandsIdempotent := by
  intro i s t hi ha h
  obtain ⟨hb, hw⟩ := readOnly_command i hi
  obtain ⟨r, rfl, hagain⟩ := bodyOf_readOnly hi ((exec_admitted_iff hb hw ha).mp h)
  have ha' : Admitted i (respond r s) := by simpa [Admitted] using ha
  exact ⟨r, rfl, (exec_admitted_iff hb hw ha').mpr (hagain _ (by simp) (by simp) (by simp) (by simp))⟩

end Sys2Proof.Proofs
end

section
/-! The encoding (30_encoding.md): the two formats' codes and their instructions, illegal words, operand ranges, and the
event word. -/

namespace Sys2Proof.Machine
open Sys2Proof.Laws.EncodesAsTable

/-! Decoding inverts encoding -/

/-- A word decodes by the row of its opcode (30_encoding.md R89). -/
theorem decodeCmd_of_row_a {w : CmdWord} {f : Byte → Instr} (h : opcodeMap (opField w) = some (.a f))
    (hb : bField w = 0#8) : decodeCmd w = .ok (f (aField w)) := by
  simp [decodeCmd, h, hb]

theorem decodeCmd_of_row_ab {w : CmdWord} {f : Byte → Byte → Instr} (h : opcodeMap (opField w) = some (.ab f)) :
    decodeCmd w = .ok (f (aField w) (bField w)) := by
  simp [decodeCmd, h]

theorem decodeCmd_cmdOf_a {op : Byte} {f : Byte → Instr} (h : opcodeMap op = some (.a f)) (a : Byte) :
    decodeCmd (cmdOf op a 0#8) = .ok (f a) := by
  rw [decodeCmd_of_row_a (f := f) (by rwa [opField_cmdOf]) (bField_cmdOf op a 0#8), aField_cmdOf]

theorem decodeCmd_cmdOf_ab {op : Byte} {f : Byte → Byte → Instr} (h : opcodeMap op = some (.ab f)) (a b : Byte) :
    decodeCmd (cmdOf op a b) = .ok (f a b) := by
  rw [decodeCmd_of_row_ab (f := f) (by rwa [opField_cmdOf]), aField_cmdOf, bField_cmdOf]

/-- An input byte's class is found for each value of its few free bits, a command's row by its opcode, whatever the
operands; a command without operands is one word. -/
theorem decode_encode (i : Instr) : decode (encode i) = .ok i := by
  cases i with
  | midiRealtime r => revert r; decide
  | midiSysCommon k => revert k; decide
  | midiNoteOff c => revert c; decide
  | midiNoteOn c => revert c; decide
  | midiStatusA c => revert c; decide
  | midiControlChange c => revert c; decide
  | midiStatusC c => revert c; decide
  | midiStatusD c => revert c; decide
  | midiPitchBend c => revert c; decide
  | midiData d => revert d; decide
  | qPush a => exact decodeCmd_cmdOf_a rfl a
  | decFeed a => exact decodeCmd_cmdOf_a rfl a
  | decSetChannel a => exact decodeCmd_cmdOf_a rfl a
  | decSetOmni a => exact decodeCmd_cmdOf_a rfl a
  | trkNoteOff a => exact decodeCmd_cmdOf_a rfl a
  | decSetCallback a b => exact decodeCmd_cmdOf_ab rfl a b
  | trkNoteOn a b => exact decodeCmd_cmdOf_ab rfl a b
  | _ => rfl

/-! Encoding inverts decoding -/

/-- The table's number of an input byte's instruction determines its code (30_encoding.md R81). -/
theorem encode_of_rowNumber {i : Instr} {b : Byte} (hi : isInputByte i = true) (h : rowNumber i = b.toNat) :
    encode i = .byte b := by
  have hcode : codeNumber (encode i) = rowNumber i := by
    cases i with
    | midiRealtime r => exact midiRealtime r
    | midiSysCommon k => exact midiSysCommon k
    | midiNoteOff c => exact midiNoteOff c
    | midiNoteOn c => exact midiNoteOn c
    | midiStatusA c => exact midiStatusA c
    | midiControlChange c => exact midiControlChange c
    | midiStatusC c => exact midiStatusC c
    | midiStatusD c => exact midiStatusD c
    | midiPitchBend c => exact midiPitchBend c
    | midiData d => exact midiData d
    | _ => cases hi
  unfold isInputByte at hi
  split at hi
  · rename_i c hc
    rw [hc] at hcode
    rw [hc, BitVec.eq_of_toNat_eq (hcode.trans h)]
  · cases hi

theorem decodeByte_of_rowNumber {i : Instr} {b : Byte} (hi : isInputByte i = true) (h : rowNumber i = b.toNat) :
    decodeByte b = i := by
  have hdec := decode_encode i
  rw [encode_of_rowNumber hi h] at hdec
  exact Except.ok.inj hdec

/-- Every byte is in one of the ten ranges of 30_encoding.md R81. -/
theorem exists_rowNumber (b : Byte) : ∃ i, isInputByte i = true ∧ rowNumber i = b.toNat := by
  have hlt := b.isLt
  obtain h | h | h | h | h | h | h | h | h | h :
      b.toNat / 8 = 31 ∨ b.toNat / 8 = 30 ∨ b.toNat / 16 = 8 ∨ b.toNat / 16 = 9 ∨ b.toNat / 16 = 10 ∨
        b.toNat / 16 = 11 ∨ b.toNat / 16 = 12 ∨ b.toNat / 16 = 13 ∨ b.toNat / 16 = 14 ∨ b.toNat < 128 := by omega
  · exact ⟨.midiRealtime (b.extractLsb' 0 3), rfl, by simp [rowNumber]; omega⟩
  · exact ⟨.midiSysCommon (b.extractLsb' 0 3), rfl, by simp [rowNumber]; omega⟩
  · exact ⟨.midiNoteOff (b.extractLsb' 0 4), rfl, by simp [rowNumber]; omega⟩
  · exact ⟨.midiNoteOn (b.extractLsb' 0 4), rfl, by simp [rowNumber]; omega⟩
  · exact ⟨.midiStatusA (b.extractLsb' 0 4), rfl, by simp [rowNumber]; omega⟩
  · exact ⟨.midiControlChange (b.extractLsb' 0 4), rfl, by simp [rowNumber]; omega⟩
  · exact ⟨.midiStatusC (b.extractLsb' 0 4), rfl, by simp [rowNumber]; omega⟩
  · exact ⟨.midiStatusD (b.extractLsb' 0 4), rfl, by simp [rowNumber]; omega⟩
  · exact ⟨.midiPitchBend (b.extractLsb' 0 4), rfl, by simp [rowNumber]; omega⟩
  · exact ⟨.midiData (b.extractLsb' 0 7), rfl, by simp [rowNumber]; omega⟩

/-- Every byte has the number of an input byte's instruction, which is therefore its class. -/
theorem encode_decodeByte (b : Byte) : encode (decodeByte b) = .byte b := by
  obtain ⟨i, hi, hnumber⟩ := exists_rowNumber b
  rw [decodeByte_of_rowNumber hi hnumber, encode_of_rowNumber hi hnumber]

/-! Which command words are legal -/

/-- How many values the part of a word has that the row marks 0 (30_encoding.md R88): it is the word's low bits. -/
def reservedValues : RowShape → Nat
  | .none _ => 65536
  | .a _ => 256
  | .ab _ => 1

theorem bField_eq_zero {w : CmdWord} : bField w = 0#8 ↔ w.toNat % 256 = 0 := by
  rw [← BitVec.toNat_inj, bField_toNat]
  rfl

theorem operandFields_eq_zero {w : CmdWord} : aField w = 0#8 ∧ bField w = 0#8 ↔ w.toNat % 65536 = 0 := by
  rw [bField_eq_zero, ← BitVec.toNat_inj, aField_toNat]
  change _ = 0 ∧ _ ↔ _
  omega

/-- A command word is legal when its opcode has a row and what that row marks 0 is zero (30_encoding.md R89). -/
theorem decodeCmd_legal_iff {w : CmdWord} :
    (∃ i, decodeCmd w = .ok i) ↔
      ∃ n, (opcodeMap (opField w)).map reservedValues = some n ∧ w.toNat % n = 0 := by
  unfold decodeCmd
  cases opcodeMap (opField w) with
  | none => simp
  | some r =>
    cases r with
    | none i => by_cases h : w.toNat % 65536 = 0 <;> simp [operandFields_eq_zero, reservedValues, h]
    | a f => by_cases h : w.toNat % 256 = 0 <;> simp [bField_eq_zero, reservedValues, h]
    | ab f => simp [reservedValues, Nat.mod_one]

/-- The 21 opcodes of 30_encoding.md R88 by the shape of their rows; every other opcode has no row (R91). -/
theorem opcodeMap_reservedValues (op : Byte) :
    (opcodeMap op).map reservedValues =
      if op.toNat ∈ [0x26, 0x30] then some 1
      else if op.toNat ∈ [0x11, 0x20, 0x22, 0x23, 0x31] then some 256
      else if op.toNat ∈ [0x10, 0x12, 0x13, 0x14, 0x15, 0x21, 0x24, 0x25, 0x32, 0x33, 0x34, 0x40, 0x41, 0x42] then
        some 65536
      else none := by
  revert op
  decide

/-! Feeding a byte -/

theorem isChannelStatus_statusOf {k : BitVec 4} (hlo : 0x8#4 ≤ k) (hhi : k ≤ 0xE#4) (c : BitVec 4) :
    isChannelStatus (statusOf k c) = true := by
  revert k c
  decide

/-- A byte's feeding is the effect of the instruction it encodes (41_message_decoder.md R120). -/
theorem feedByte_of_encode {i : Instr} {b : Byte} (h : encode i = .byte b) (s : State) : feedByte b s = feedOf i s := by
  cases i <;> cases h
  case midiRealtime r =>
    have hge : ∀ r : BitVec 3, 0xF8#8 ≤ (0b11111#5 ++ r : BitVec 8) := by decide
    exact if_pos (hge r)
  case midiSysCommon k =>
    have hrange : ∀ k : BitVec 3, ¬ 0xF8#8 ≤ (0b11110#5 ++ k : BitVec 8) ∧ 0xF0#8 ≤ (0b11110#5 ++ k : BitVec 8) := by
      decide
    exact (if_neg (hrange k).1).trans (if_pos (hrange k).2)
  case midiData d => exact feedByte_data d s
  all_goals exact feedByte_status (isChannelStatus_statusOf (by decide) (by decide) _) s

/-! The event word -/

/-- The four fields of an event word on numbers (30_encoding.md R94). -/
theorem eventWord_field_numbers (ev : Event) :
    (eventWord ev).toNat / 2 ^ 24 = (kindCode (eventKind ev)).toNat ∧
    (eventWord ev).toNat / 2 ^ 20 % 2 ^ 4 = (eventChannelField ev).toNat ∧
    (eventWord ev).toNat / 2 ^ 14 % 2 ^ 6 = 0 ∧
    (eventWord ev).toNat % 2 ^ 14 = (eventPayload ev).toNat := by
  have hchannel := (eventChannelField ev).isLt
  have hpayload := (eventPayload ev).isLt
  rw [eventWord_toNat]
  omega

theorem kindCode_toNat (ev : Event) : (kindCode (eventKind ev)).toNat = (eventFields ev).kind := by
  cases ev <;> rfl

theorem channelField_toNat {ch : Channel} (h : 1 ≤ ch.toNat ∧ ch.toNat ≤ 16) :
    ((ch - 1#5).setWidth 4).toNat = ch.toNat - 1 := by
  simp only [BitVec.toNat_setWidth, BitVec.toNat_sub, BitVec.toNat_ofNat]
  omega

/-- A channel is its field plus 1 (30_encoding.md R82, R94). -/
theorem channel_of_field {ch : Channel} (h : 1 ≤ ch.toNat ∧ ch.toNat ≤ 16) :
    ((ch - 1#5).setWidth 4).setWidth 5 + 1#5 = ch := by
  apply BitVec.eq_of_toNat_eq
  rw [BitVec.toNat_add, BitVec.toNat_setWidth, channelField_toNat h, BitVec.toNat_ofNat]
  omega

theorem eventChannelField_toNat {ev : Event} (h : eventOk ev = true) :
    (eventChannelField ev).toNat = (eventFields ev).channel := by
  cases ev with
  | noteOn a b ch => exact channelField_toNat (of_decide_eq_true h)
  | noteOff a b ch => exact channelField_toNat (of_decide_eq_true h)
  | controlChange a b ch => exact channelField_toNat (of_decide_eq_true h)
  | pitchBend v ch =>
    obtain ⟨-, -, hchannel⟩ := of_decide_eq_true h
    exact channelField_toNat hchannel
  | realTime st => rfl

theorem dataPair_toNat (a b : Data7) : (dataPair a b).toNat = a.toNat * 128 + b.toNat := by
  have ha := a.isLt
  have hb := b.isLt
  simp only [dataPair, BitVec.toNat_ofNat]
  omega

/-- A pitch-bend value in 14-bit two's complement. -/
theorem bendPayload_toNat {v : Int} (h : -8192 ≤ v ∧ v ≤ 8191) :
    (BitVec.ofInt 14 v).toNat = (if v < 0 then v + 16384 else v).toNat := by
  rw [BitVec.toNat_ofInt]
  split <;> omega

theorem eventPayload_toNat {ev : Event} (h : eventOk ev = true) :
    (eventPayload ev).toNat = (eventFields ev).payload := by
  cases ev with
  | noteOn a b ch => exact dataPair_toNat a b
  | noteOff a b ch => exact dataPair_toNat a b
  | controlChange a b ch => exact dataPair_toNat a b
  | pitchBend v ch =>
    obtain ⟨hlo, hhi, -⟩ := of_decide_eq_true h
    exact bendPayload_toNat ⟨hlo, hhi⟩
  | realTime st =>
    have hlt := st.isLt
    simp only [eventPayload, eventFields, BitVec.toNat_setWidth]
    omega

@[simp] theorem dataPair_high (a b : Data7) : (dataPair a b).extractLsb' 7 7 = a := by
  have ha := a.isLt
  have hb := b.isLt
  apply BitVec.eq_of_toNat_eq
  rw [BitVec.extractLsb'_toNat, dataPair_toNat, Nat.shiftRight_eq_div_pow]
  omega

@[simp] theorem dataPair_low (a b : Data7) : (dataPair a b).extractLsb' 0 7 = b := by
  have hb := b.isLt
  apply BitVec.eq_of_toNat_eq
  rw [BitVec.extractLsb'_toNat, dataPair_toNat, Nat.shiftRight_eq_div_pow]
  omega

theorem bendPayload_toInt {v : Int} (h : -8192 ≤ v ∧ v ≤ 8191) : (BitVec.ofInt 14 v).toInt = v :=
  BitVec.toInt_ofInt_eq_self (by decide) (by omega) (by omega)

/-- A field inside `e[13:0]` is that field of the payload. -/
theorem eventWord_payload_field (ev : Event) {start len : Nat} (h : start + len ≤ 14) :
    (eventWord ev).extractLsb' start len = (eventPayload ev).extractLsb' start len := by
  obtain ⟨-, -, -, hpayload⟩ := eventWord_fields ev
  rw [← hpayload, ← BitVec.setWidth_eq_extractLsb' (by omega), BitVec.extractLsb'_setWidth_of_le h]

/-- The status of a real-time event in its payload, and the fixed bits around its code (30_encoding.md R94). -/
theorem realTimePayload_fields {st : Byte} (h : 0xF8 ≤ st.toNat) :
    (st.setWidth 14).extractLsb' 8 6 = 0#6 ∧ (st.setWidth 14).extractLsb' 3 5 = 0b11111#5 ∧
      (st.setWidth 14).extractLsb' 0 8 = st := by
  have hlt := st.isLt
  refine ⟨?_, ?_, ?_⟩ <;> apply BitVec.eq_of_toNat_eq <;>
    simp only [BitVec.extractLsb'_toNat, BitVec.toNat_setWidth, Nat.shiftRight_eq_div_pow, BitVec.toNat_ofNat] <;>
    omega

/-- The fields of the word are those of the event, and each of the event's arguments is read back from its field. -/
theorem eventOfWord_eventWord {ev : Event} (h : eventOk ev = true) : eventOfWord (eventWord ev) = some ev := by
  obtain ⟨hkind, hchannel, hzero, hpayload⟩ := eventWord_fields ev
  have hfield := fun start len => eventWord_payload_field ev (start := start) (len := len)
  unfold eventOfWord
  rw [hkind, hchannel, if_pos hzero, hpayload, hfield 7 7 (by decide), hfield 0 7 (by decide),
    hfield 8 6 (by decide), hfield 3 5 (by decide), hfield 0 8 (by decide)]
  cases ev with
  | noteOn a b ch =>
    simp [eventKind, kindCode, eventChannelField, eventPayload, channel_of_field (of_decide_eq_true h)]
  | noteOff a b ch =>
    simp [eventKind, kindCode, eventChannelField, eventPayload, channel_of_field (of_decide_eq_true h)]
  | controlChange a b ch =>
    simp [eventKind, kindCode, eventChannelField, eventPayload, channel_of_field (of_decide_eq_true h)]
  | pitchBend v ch =>
    obtain ⟨hlo, hhi, hch⟩ := of_decide_eq_true h
    simp [eventKind, kindCode, eventChannelField, eventPayload, bendPayload_toInt ⟨hlo, hhi⟩, channel_of_field hch]
  | realTime st =>
    obtain ⟨hhigh, hones, hst⟩ := realTimePayload_fields (of_decide_eq_true h)
    simp [eventKind, kindCode, eventChannelField, eventPayload, hhigh, hones, hst]

/-! Faults -/

@[simp] theorem atTurn_port (a : Agent) (rest : List Agent) (s : State) (g : Agent) :
    (atTurn a rest s).port g = s.port g := by
  simp [atTurn]

/-- While a command is presented at a port the run has not ended (70_reset_and_hazards.md R266). -/
theorem runEnded_of_presented {s : State} {a : Agent} {w : CmdWord} {ws : List CmdWord}
    (h : (s.port a).cmds = w :: ws) : runEnded s = false := by
  cases a <;> simp only [State.port_P, State.port_C] at h <;> simp [runEnded, h]

/-- A command of C with an operand out of range has no effect but the fault entry (30_encoding.md R90). -/
theorem exec_outOfRange_of_C {i : Instr} {s : State} (hf : s.fault = none) (hC : s.issuer = .C)
    (hb : isInputByte i = false) (ha : admits s.cfg .C i = true) (hw : i.wellFormed = false) :
    exec i s = .next (s.withFault (some { reason := .operand, word := commandWord i, agent := .C })) := by
  rw [exec_command s hb, command_next, operandsInRange_eq_wellFormed, hC]
  exact ⟨hf, .inr (.inl ⟨ha, hw, by rw [raiseFault, hC]⟩)⟩

end Sys2Proof.Machine

namespace Sys2Proof.Proofs
open Sys2Proof.Machine Sys2Proof.Laws.EncodesAsTable

/-- Settles O7: the encoder's word of each row, looked up again in the map, gives the row back. -/
theorem decodeOfEncode : Obligations.DecodeOfEncode := decode_encode

/-- Settles O8: for a byte through its number in the table, for a command word through the row of its opcode. -/
theorem encodeOfDecode : Obligations.EncodeOfDecode := by
  rintro (b | w) i h
  · obtain rfl : decodeByte b = i := Except.ok.inj h
    exact encode_decodeByte b
  · exact encode_of_decodeCmd h

/-- Settles O9: the row of the opcode says which low bits of the word must be zero. -/
theorem legalCommandWords : Obligations.LegalCommandWords := by
  intro w
  rw [decodeCmd_legal_iff, opcodeMap_reservedValues, opField_toNat]
  split_ifs with hab ha hnone
  · simp [hab, Nat.mod_one]
  · simp only [Option.some.injEq, exists_eq_left']
    refine ⟨fun hzero => .inr (.inl ⟨ha, hzero⟩), ?_⟩
    rintro (h | ⟨-, h⟩ | ⟨-, h⟩)
    · exact absurd h hab
    · exact h
    · omega
  · simp only [Option.some.injEq, exists_eq_left']
    refine ⟨fun hzero => .inr (.inr ⟨hnone, hzero⟩), ?_⟩
    rintro (h | ⟨h, -⟩ | ⟨-, h⟩)
    · exact absurd h hab
    · exact absurd h ha
    · exact h
  · simp [hab, ha, hnone]

/-- Settles O12: a byte is the code of its class, whose execution is the feeding of the byte. -/
theorem feedExecutesDecodedByte : Obligations.FeedExecutesDecodedByte := by
  intro b s hf
  rw [exec_inputByte s (decodeByte_isInputByte b), inputByte_next]
  exact ⟨hf, feedByte_of_encode (encode_decodeByte b) s⟩

/-- Settles O13: each field of the word holds the event's number for it, and from the fields every argument is read
back. -/
theorem eventWordLossless : Obligations.EventWordLossless := by
  intro ev h
  rw [← kindCode_toNat, ← eventChannelField_toNat h, ← eventPayload_toNat h]
  exact ⟨eventOfWord_eventWord h, eventWord_field_numbers ev⟩

/-- Settles O10: the map evaluated at each word. -/
theorem specExampleWordsDecode : Obligations.SpecExampleWordsDecode :=
  ⟨rfl, rfl, rfl, rfl, rfl, rfl, rfl, rfl, rfl, rfl, rfl⟩

/-- Settles O11: within each range the byte has the number the table gives its class's instruction. -/
theorem inputByteClasses : Obligations.InputByteClasses := by
  intro b
  have hlt := b.isLt
  refine ⟨?_, ?_, ?_, ?_, ?_, ?_, ?_, ?_, ?_, ?_⟩ <;> intro h <;> refine decodeByte_of_rowNumber rfl ?_ <;>
    simp only [rowNumber, BitVec.toNat_ofNat] <;> omega

/-- Settles O16: work is left, so the turn is taken, and the word at the head of the agent's port does not decode. -/
theorem illegalWordRecordsFault : Obligations.IllegalWordRecordsFault := by
  intro s a rest w ws e hlegal hf hturns hcmds hbusy he
  rw [step_turn hlegal hf (runEnded_of_presented hcmds) hturns]
  obtain ⟨hnil, -⟩ | ⟨w', ws', hcmds', hrun⟩ := turnResult_command (s := atTurn a rest s) hbusy
  · simp [hcmds] at hnil
  · rw [atTurn_issuer, atTurn_port, hcmds] at hcmds'
    cases hcmds'
    obtain ⟨i, hi, -⟩ | ⟨-, -, hresult⟩ := hrun
    · cases he.symm.trans hi
    · rw [hresult, raiseFault, taken_issuer, atTurn_issuer, taken, atTurn_port]
      rfl

/-- Settles O20: each range of 30_encoding.md R90 is the well-formedness of its command. -/
theorem outOfRangeOperandRecordsFault : Obligations.OutOfRangeOperandRecordsFault := by
  intro a b s hf hC
  refine ⟨fun h => ?_, fun h => ?_, fun h => ?_, fun h => ?_, fun h => ?_⟩ <;>
    refine exec_outOfRange_of_C hf hC rfl rfl ?_ <;> simp only [Instr.wellFormed, decide_eq_false_iff_not] <;> omega

end Sys2Proof.Proofs
end

section
/-! The ByteQueue commands' exact results (40_byte_queue.md R100 to R105). -/

namespace Sys2Proof.Machine

theorem qEmpty_eq_true {s : State} : qEmpty s = true ↔ s.q.wi = s.q.ri := by
  simp [qEmpty]

theorem qFull_eq_true {s : State} : qFull s = true ↔ advance s.cfg.qcap s.q.wi = s.q.ri := by
  simp [qFull]

/-- `Q_IS_FULL` answers `Q.full` to either agent (40_byte_queue.md R104). -/
theorem exec_qIsFull {s : State} (hf : s.fault = none) :
    exec .qIsFull s = .next (respond (respBool (qFull s)) s) :=
  exec_of_body rfl hf rfl rfl rfl

/-- `Q_IS_EMPTY` answers `Q.empty` to either agent (40_byte_queue.md R105). -/
theorem exec_qIsEmpty {s : State} (hf : s.fault = none) :
    exec .qIsEmpty s = .next (respond (respBool (qEmpty s)) s) :=
  exec_of_body rfl hf rfl rfl rfl

end Sys2Proof.Machine

namespace Sys2Proof.Proofs
open Sys2Proof.Machine

/-- Settles O23: C is admitted, and the command's own effect is the index reset. -/
theorem qInitResult : Obligations.QInitResult := fun _ hf hC =>
  exec_of_body rfl hf (by simp [admits, hC]) rfl rfl

/-- Settles O24: the two cases of a push, the second with what the written storage reads as. -/
theorem qPushResult : Obligations.QPushResult := by
  intro a s hf hP
  have hadmit : admits s.cfg s.issuer (.qPush a) = true := by simp [admits, hP]
  refine ⟨fun hfull => ?_, fun hfree hwi => ⟨memSet s.q.mem s.q.wi a, ?_, ?_, ?_⟩⟩
  · exact exec_of_body rfl hf hadmit rfl (bodyOf_qPush.mpr (.inl ⟨qFull_eq_true.mpr hfull, rfl⟩))
  · exact exec_of_body rfl hf hadmit rfl (bodyOf_qPush.mpr (.inr ⟨qFull_eq_false.mpr hfree, hwi, rfl⟩))
  · exact memGet_memSet_same _ _ _
  · exact fun j hj => memGet_memSet_other _ _ hj

/-- Settles O25: the two cases of a pop. -/
theorem qPopResult : Obligations.QPopResult := by
  intro s hf hC
  have hadmit : admits s.cfg s.issuer .qPop = true := by simp [admits, hC]
  refine ⟨fun hempty => ?_, fun b hne hri hb => ?_⟩ <;> refine exec_of_body rfl hf hadmit rfl (bodyOf_qPop.mpr ?_)
  · exact .inl ⟨qEmpty_eq_true.mpr hempty, rfl⟩
  · exact .inr ⟨qEmpty_eq_false.mpr hne, hri, b, hb, rfl⟩

/-- Settles O26: the two cases of a peek. -/
theorem qPeekResult : Obligations.QPeekResult := by
  intro s hf hC
  have hadmit : admits s.cfg s.issuer .qPeek = true := by simp [admits, hC]
  refine ⟨fun hempty => ?_, fun b hne hri hb => ?_⟩ <;> refine exec_of_body rfl hf hadmit rfl (bodyOf_qPeek.mpr ?_)
  · exact .inl ⟨qEmpty_eq_true.mpr hempty, rfl⟩
  · exact .inr ⟨qEmpty_eq_false.mpr hne, hri, b, hb, rfl⟩

/-- Settles O27: each query answers its flag, which is the comparison of the indices. -/
theorem queueQueriesResult : Obligations.QueueQueriesResult := by
  intro s hf
  rw [exec_qIsFull hf, exec_qIsEmpty hf]
  refine ⟨fun h => ?_, fun h => ?_, fun h => ?_, fun h => ?_⟩
  · rw [qFull_eq_true.mpr h]; rfl
  · rw [qFull_eq_false.mpr h]; rfl
  · rw [qEmpty_eq_true.mpr h]; rfl
  · rw [qEmpty_eq_false.mpr h]; rfl

end Sys2Proof.Proofs
end

section
/-! The message decoder (41_message_decoder.md): what each rule does, case by case; the input bytes' and the decoder
commands' exact results; streams of bytes. -/

namespace Sys2Proof.Machine

/-! Execution -/

/-- An input byte has its class's effect while no fault is recorded (60_exceptions.md R223). -/
theorem exec_inputByte_of_noFault {i : Instr} {s : State} (hf : s.fault = none) (hb : isInputByte i = true) :
    exec i s = .next (feedOf i s) := by
  rw [exec_inputByte s hb, inputByte_next]
  exact ⟨hf, rfl⟩

/-- A command of C with operands in range answers what its own effect answers. -/
theorem exec_of_body_of_C {i : Instr} {s t : State} (hf : s.fault = none) (hC : s.issuer = .C)
    (hb : isInputByte i = false) (ha : admits s.cfg .C i = true) (hw : i.wellFormed = true) (h : bodyOf i s = .ok t) :
    exec i s = .next t :=
  exec_of_body hb hf (hC ▸ ha) hw h

/-! Status bytes -/

theorem statusKind_statusOf (k c : BitVec 4) : statusKind (statusOf k c) = k := by
  revert k c
  decide

theorem statusKind_eq_iff {st : Byte} {k : BitVec 4} : statusKind st = k ↔ st.toNat / 16 = k.toNat := by
  rw [← statusKind_toNat]
  exact BitVec.toNat_inj.symm

/-- The message types of two data bytes, by the status's high nibble (41_message_decoder.md R121). -/
theorem expectedCount_eq_two_iff {st : Byte} : expectedCount st = 2#2 ↔ st.toNat / 16 ∈ [0x8, 0x9, 0xB, 0xE] := by
  simp [expectedCount, statusKind_eq_iff, or_iff_not_imp_left]

theorem expectedCount_eq_zero_iff {st : Byte} : expectedCount st = 0#2 ↔ st.toNat / 16 ∉ [0x8, 0x9, 0xB, 0xE] := by
  rw [← expectedCount_eq_two_iff]
  obtain h | h := expectedCount_cases st <;> simp [h]

/-! Delivery and dispatch -/

theorem deliver_of_none {ev : Event} {s : State} (h : targetFor s.d.cb (eventKind ev) = .none) : deliver ev s = s := by
  simp [deliver, h]

theorem deliver_of_host {ev : Event} {s : State} (h : targetFor s.d.cb (eventKind ev) = .host) :
    deliver ev s = s.withEvents (s.events ++ [ev]) := by
  simp [deliver, h]

theorem deliver_of_tracker {ev : Event} {s : State} (h : targetFor s.d.cb (eventKind ev) = .tracker) :
    deliver ev s = deliverToTracker ev s := by
  simp [deliver, h]

/-- The filter on numbers: omni, or the status's channel is the decoder's (41_message_decoder.md R145). -/
theorem passesFilter_iff {st : Byte} {d : Decoder} :
    passesFilter st d = true ↔ d.omni = true ∨ st.toNat % 16 + 1 = d.chan.toNat := by
  rw [passesFilter, Bool.or_eq_true, beq_iff_eq, ← BitVec.toNat_inj, statusChannel_toNat]

/-- A zero-data status has no event (41_message_decoder.md R151). -/
theorem messageEvent_of_zeroData {st : Byte} (h : expectedCount st = 0#2) (d1 d2 : Data7) :
    messageEvent st d1 d2 = none := by
  have hkind := expectedCount_eq_zero_iff.mp h
  simp only [List.mem_cons, List.not_mem_nil, or_false, not_or] at hkind
  simp [messageEvent, statusKind_eq_iff, hkind]

/-- The model's event of a completed message is the one the rules give on numbers. -/
theorem messageEvent_of_means {st : Byte} {d1 d2 : Data7} {ev : Event} (h : MessageMeans st d1 d2 ev) :
    messageEvent st d1 d2 = some ev := by
  have hchannel : ∀ ch : Channel, ch.toNat = st.toNat % 16 + 1 → ch = statusChannel st := fun ch hch =>
    BitVec.eq_of_toNat_eq (hch.trans (statusChannel_toNat st).symm)
  cases ev with
  | noteOn n v ch =>
    obtain ⟨hkind, hvel, rfl, rfl, hch⟩ := h
    simp [messageEvent, statusKind_eq_iff, hkind, hvel, hchannel ch hch]
  | noteOff n v ch =>
    obtain ⟨hkind | ⟨hkind, hvel⟩, rfl, rfl, hch⟩ := h
    · simp [messageEvent, statusKind_eq_iff, hkind, hchannel ch hch]
    · simp [messageEvent, statusKind_eq_iff, hkind, hvel, hchannel ch hch]
  | controlChange n v ch =>
    obtain ⟨hkind, rfl, rfl, hch⟩ := h
    simp [messageEvent, statusKind_eq_iff, hkind, hchannel ch hch]
  | pitchBend v ch =>
    obtain ⟨hkind, rfl, hch⟩ := h
    simp [messageEvent, statusKind_eq_iff, hkind, bendValue_eq, hchannel ch hch]
  | realTime st => exact h.elim

theorem dispatch_of_filtered {st : Byte} {s : State} (h : passesFilter st s.d = false) (d1 d2 : Data7) :
    dispatch st d1 d2 s = s := by
  simp [dispatch, h]

theorem dispatch_of_zeroData {st : Byte} (h : expectedCount st = 0#2) (d1 d2 : Data7) (s : State) :
    dispatch st d1 d2 s = s := by
  simp [dispatch, messageEvent_of_zeroData h]

theorem dispatch_of_event {st : Byte} {d1 d2 : Data7} {ev : Event} {s : State} (hp : passesFilter st s.d = true)
    (hev : messageEvent st d1 d2 = some ev) : dispatch st d1 d2 s = deliver ev s := by
  simp [dispatch, hp, hev]

/-! The byte rules -/

theorem syscommonByte_eq (s : State) :
    syscommonByte s = s.withD { s.d with
      state := .idle, cs := 0#8, d1 := 0#7, d2 := 0#7, exp := 0#2,
      rs := if s.cfg.scClearsRs = true then 0#8 else s.d.rs } := by
  unfold syscommonByte
  split <;> rfl

theorem statusByte_of_twoData {st : Byte} (h : expectedCount st = 2#2) (s : State) :
    statusByte st s = s.withD { s.d with state := .await1, rs := st, cs := st, exp := 2#2, d1 := 0#7, d2 := 0#7 } := by
  simp [statusByte, h]

theorem statusByte_of_zeroData {st : Byte} (h : expectedCount st = 0#2) (s : State) :
    statusByte st s = s.withD { s.d with state := .idle, rs := st, cs := st, exp := 0#2, d1 := 0#7, d2 := 0#7 } := by
  simp [statusByte, h, dispatch_of_zeroData h]

theorem dataByte_idle_of_noStatus {s : State} (hs : s.d.state = .idle) (hrs : s.d.rs = 0#8) (b : Data7) :
    dataByte b s = s.withD (parserClear s.d) := by
  simp [dataByte, hs, hrs]

theorem dataByte_idle_of_twoData {s : State} (hs : s.d.state = .idle) (hrs : expectedCount s.d.rs = 2#2) (b : Data7) :
    dataByte b s = s.withD { s.d with state := .await2, cs := s.d.rs, exp := 2#2, d1 := b, d2 := 0#7 } := by
  have hne : s.d.rs ≠ 0#8 := fun h => absurd (h ▸ hrs) (by decide)
  simp [dataByte, hs, hrs, hne]

theorem dataByte_idle_of_zeroData {s : State} (hs : s.d.state = .idle) (hne : s.d.rs ≠ 0#8)
    (hrs : expectedCount s.d.rs = 0#2) (b : Data7) :
    dataByte b s = s.withD { s.d with state := .idle, cs := s.d.rs, exp := 0#2 } := by
  simp [dataByte, hs, hrs, hne]

theorem dataByte_await1 {s : State} (hs : s.d.state = .await1) (hexp : s.d.exp ≠ 1#2) (b : Data7) :
    dataByte b s = s.withD { s.d with state := .await2, d1 := b } := by
  simp [dataByte, hs, hexp]

/-- The state in which the message a second data byte completes is dispatched (41_message_decoder.md R137). -/
def atCompletion (b : Data7) (s : State) : State := s.withD { s.d with state := .idle, d2 := b }

theorem dataByte_await2 {s : State} (hs : s.d.state = .await2) (b : Data7) :
    dataByte b s = dispatch s.d.cs s.d.d1 b (atCompletion b s) := by
  simp [dataByte, hs, atCompletion]

/-- A completed message of a channel the filter does not pass has no event. -/
theorem exec_completion_filtered {s : State} (hf : s.fault = none) (hs : s.d.state = .await2)
    (hp : passesFilter s.d.cs s.d = false) (b : Data7) : exec (.midiData b) s = .next (atCompletion b s) := by
  rw [exec_inputByte_of_noFault hf rfl, feedOf, dataByte_await2 hs]
  exact congrArg _ (dispatch_of_filtered (s := atCompletion b s) hp _ _)

/-- A completed message of a channel the filter passes has its event delivered. -/
theorem exec_completion_delivers {b : Data7} {s : State} {ev : Event} (hf : s.fault = none) (hs : s.d.state = .await2)
    (hp : passesFilter s.d.cs s.d = true) (hev : messageEvent s.d.cs s.d.d1 b = some ev) :
    exec (.midiData b) s = .next (deliver ev (atCompletion b s)) := by
  rw [exec_inputByte_of_noFault hf rfl, feedOf, dataByte_await2 hs]
  exact congrArg _ (dispatch_of_event (s := atCompletion b s) hp hev)

theorem feedByte_realtime {b : Byte} (h : 0xF8#8 ≤ b) (s : State) : feedByte b s = realtimeByte b s := if_pos h

/-! Streams with and without real-time bytes (41_message_decoder.md R130) -/

/-- The state without the real-time events of its log. -/
def dropRealTime (s : State) : State := s.withEvents (s.events.filter (fun e => !isRealTime e))

theorem deliver_realTime_dropRealTime (b : Byte) (s : State) :
    dropRealTime (deliver (.realTime b) s) = dropRealTime s := by
  cases ht : targetFor s.d.cb (eventKind (.realTime b)) with
  | none => rw [deliver_of_none ht]
  | host =>
    rw [deliver_of_host ht]
    simp [dropRealTime, isRealTime]
  | tracker =>
    rw [deliver_of_tracker ht]
    rfl

theorem deliver_dropRealTime {ev : Event} (hev : isRealTime ev = false) (s : State) :
    deliver ev (dropRealTime s) = dropRealTime (deliver ev s) := by
  have hd : (dropRealTime s).d = s.d := rfl
  cases ht : targetFor s.d.cb (eventKind ev) with
  | none => rw [deliver_of_none ht, deliver_of_none (hd ▸ ht)]
  | host =>
    rw [deliver_of_host ht, deliver_of_host (hd ▸ ht)]
    simp [dropRealTime, hev]
  | tracker =>
    rw [deliver_of_tracker ht, deliver_of_tracker (hd ▸ ht)]
    cases ev <;> rfl

theorem messageEvent_not_realTime {st : Byte} {d1 d2 : Data7} {ev : Event} (h : messageEvent st d1 d2 = some ev) :
    isRealTime ev = false := by
  unfold messageEvent at h
  split_ifs at h <;> cases h <;> rfl

theorem dispatch_dropRealTime (st : Byte) (d1 d2 : Data7) (s : State) :
    dispatch st d1 d2 (dropRealTime s) = dropRealTime (dispatch st d1 d2 s) := by
  have hd : (dropRealTime s).d = s.d := rfl
  cases hp : passesFilter st s.d with
  | false => rw [dispatch_of_filtered hp, dispatch_of_filtered (hd ▸ hp)]
  | true =>
    cases hev : messageEvent st d1 d2 with
    | none => simp [dispatch, hev]
    | some ev =>
      rw [dispatch_of_event hp hev, dispatch_of_event (hd ▸ hp) hev]
      exact deliver_dropRealTime (messageEvent_not_realTime hev) s

theorem syscommonByte_dropRealTime (s : State) : syscommonByte (dropRealTime s) = dropRealTime (syscommonByte s) := rfl

theorem statusByte_dropRealTime (st : Byte) (s : State) :
    statusByte st (dropRealTime s) = dropRealTime (statusByte st s) := by
  obtain h | h := expectedCount_cases st
  · rw [statusByte_of_twoData h, statusByte_of_twoData h]
    rfl
  · rw [statusByte_of_zeroData h, statusByte_of_zeroData h]
    rfl

theorem dataByte_dropRealTime (b : Data7) (s : State) :
    dataByte b (dropRealTime s) = dropRealTime (dataByte b s) := by
  have hd : (dropRealTime s).d = s.d := rfl
  unfold dataByte
  rw [hd]
  split
  · split_ifs <;> rfl
  · split_ifs
    · exact dispatch_dropRealTime _ _ _ (s.withD _)
    · rfl
  · exact dispatch_dropRealTime _ _ _ (s.withD _)

/-- No byte rule but the real-time rule reads or writes a real-time event of the log. -/
theorem feedByte_dropRealTime {b : Byte} (h : ¬ 0xF8#8 ≤ b) (s : State) :
    feedByte b (dropRealTime s) = dropRealTime (feedByte b s) := by
  unfold feedByte
  split_ifs
  · exact syscommonByte_dropRealTime s
  · exact statusByte_dropRealTime b s
  · exact dataByte_dropRealTime _ s

@[simp] theorem feedAll_nil (s : State) : feedAll [] s = s := rfl

@[simp] theorem feedAll_cons (b : Byte) (bs : List Byte) (s : State) :
    feedAll (b :: bs) s = feedAll bs (feedByte b s) := rfl

/-- Feeding a stream and then dropping the real-time events of the log is dropping them first and feeding the stream
without its real-time bytes. -/
theorem feedAll_dropRealTime (bs : List Byte) (s : State) :
    dropRealTime (feedAll bs s) = feedAll (bs.filter (fun b => decide (b.toNat < 0xF8))) (dropRealTime s) := by
  induction bs generalizing s with
  | nil => rfl
  | cons b bs ih =>
    by_cases hb : b.toNat < 0xF8
    · have hnot : ¬ 0xF8#8 ≤ b := Nat.not_le.mpr hb
      simp [hb, ih, feedByte_dropRealTime hnot]
    · have hrt : 0xF8#8 ≤ b := Nat.not_lt.mp hb
      simp [hb, ih, feedByte_realtime hrt, realtimeByte, deliver_realTime_dropRealTime]

/-- Dropping the real-time events twice is dropping them once. -/
theorem dropRealTime_idem (s : State) : dropRealTime (dropRealTime s) = dropRealTime s := by
  simp [dropRealTime]

/-- A stream and the stream without its real-time bytes lead to the same state but for the real-time events. -/
theorem feedAll_filter_dropRealTime (bs : List Byte) (s : State) :
    dropRealTime (feedAll bs s) = dropRealTime (feedAll (bs.filter (fun b => decide (b.toNat < 0xF8))) s) := by
  rw [feedAll_dropRealTime, feedAll_dropRealTime (bs.filter _), List.filter_filter]
  simp

/-! The parse registers (41_message_decoder.md R152) -/

/-- The parse registers agree, and so does the one parameter that acts on them. -/
def SameParse (s u : State) : Prop := parseRegs s.d = parseRegs u.d ∧ s.cfg.scClearsRs = u.cfg.scClearsRs

theorem parseRegs_eq_iff {d e : Decoder} :
    parseRegs d = parseRegs e ↔
      d.state = e.state ∧ d.rs = e.rs ∧ d.cs = e.cs ∧ d.d1 = e.d1 ∧ d.d2 = e.d2 ∧ d.exp = e.exp := by
  simp [parseRegs]

theorem syscommonByte_parseRegs {s u : State} (h : SameParse s u) :
    parseRegs (syscommonByte s).d = parseRegs (syscommonByte u).d := by
  obtain ⟨hregs, hcfg⟩ := h
  obtain ⟨-, hrs, -⟩ := parseRegs_eq_iff.mp hregs
  simp [syscommonByte_eq, parseRegs, hrs, hcfg]

theorem statusByte_parseRegs (st : Byte) (s u : State) :
    parseRegs (statusByte st s).d = parseRegs (statusByte st u).d := by
  obtain h | h := expectedCount_cases st
  · simp [statusByte_of_twoData h, parseRegs]
  · simp [statusByte_of_zeroData h, parseRegs]

theorem dataByte_parseRegs {s u : State} (h : parseRegs s.d = parseRegs u.d) (b : Data7) :
    parseRegs (dataByte b s).d = parseRegs (dataByte b u).d := by
  obtain ⟨hstate, hrs, hcs, hd1, hd2, hexp⟩ := parseRegs_eq_iff.mp h
  unfold dataByte
  rw [hstate, hrs, hexp]
  split
  · split_ifs <;> simp [parseRegs, parserClear, *]
  · split_ifs <;> simp [parseRegs, *]
  · simp [parseRegs, *]

theorem feedByte_parseRegs {s u : State} (h : SameParse s u) (b : Byte) :
    parseRegs (feedByte b s).d = parseRegs (feedByte b u).d := by
  unfold feedByte
  split_ifs
  · simpa [realtimeByte] using h.1
  · exact syscommonByte_parseRegs h
  · exact statusByte_parseRegs b s u
  · exact dataByte_parseRegs h.1 _

theorem SameParse.feedByte {s u : State} (h : SameParse s u) (b : Byte) :
    SameParse (feedByte b s) (feedByte b u) :=
  ⟨feedByte_parseRegs h b, by simpa using h.2⟩

theorem SameParse.feedAll {s u : State} (h : SameParse s u) (bs : List Byte) :
    SameParse (feedAll bs s) (feedAll bs u) := by
  induction bs generalizing s u with
  | nil => exact h
  | cons b bs ih => exact ih (h.feedByte b)

/-! The decoder's commands and the register reads -/

theorem operandChannel_toNat {a : Byte} (h : a.toNat ≤ 16) : (operandChannel a).toNat = a.toNat := by
  rw [operandChannel, BitVec.toNat_setWidth]
  omega

/-- `DEC_SET_CALLBACK` of a kind and a target in range (41_message_decoder.md R160). -/
theorem exec_decSetCallback {a b : Byte} {k : Kind} {t : Target} {s : State} (hf : s.fault = none)
    (hC : s.issuer = .C) (hk : kindOf a = some k) (ht : targetOf b = some t)
    (hw : (Instr.decSetCallback a b).wellFormed = true) :
    exec (.decSetCallback a b) s = .next (respond 0#16 (s.withD { s.d with cb := setTarget s.d.cb k t })) := by
  have hset : setCallback a b s.d = { s.d with cb := setTarget s.d.cb k t } := by simp [setCallback, hk, ht]
  rw [← hset]
  exact exec_of_body_of_C hf hC rfl rfl hw rfl

theorem respU8_toNat (v : Byte) : (respU8 v).toNat = v.toNat := by
  have hlt := v.isLt
  rw [respU8, BitVec.toNat_setWidth]
  omega

theorem respBool_toNat (b : Bool) : (respBool b).toNat = b.toNat := by
  cases b <;> rfl

theorem soundingNote_of_held_nil {t : Tracker} (h : t.held = []) : soundingNote t = t.latched := by
  simp [soundingNote, h]

theorem soundingNote_of_held_append {t : Tracker} {l : List Held} {x : Held} (h : t.held = l ++ [x]) :
    soundingNote t = x.note := by
  simp [soundingNote, h]

end Sys2Proof.Machine

namespace Sys2Proof.Proofs
open Sys2Proof.Machine

/-- Settles O36: the event the message means is the one dispatched, if its channel passes the filter. -/
theorem completedMessageDelivery : Obligations.CompletedMessageDelivery := by
  intro b s ev hf hs hmeans
  refine ⟨fun homni hchan => ?_, fun hpass => ?_⟩
  · refine exec_completion_filtered hf hs (Bool.eq_false_iff.mpr fun hp => ?_) b
    obtain h | h := passesFilter_iff.mp hp
    · cases homni.symm.trans h
    · exact hchan h
  · rw [exec_completion_delivers hf hs (passesFilter_iff.mpr hpass) (messageEvent_of_means hmeans)]
    refine ⟨fun ht => ?_, fun ht => ?_, fun ht n v ch => ⟨?_, ?_⟩⟩
    · exact congrArg _ (deliver_of_none (s := atCompletion b s) ht)
    · exact congrArg _ (deliver_of_host (s := atCompletion b s) ht)
    · rintro rfl
      exact congrArg _ (deliver_of_tracker (s := atCompletion b s) ht)
    · rintro rfl
      exact congrArg _ (deliver_of_tracker (s := atCompletion b s) ht)

/-- Settles O38: both ways the byte is the first data byte of a message of the running status. -/
theorem runningStatusRepeatsStatus : Obligations.RunningStatusRepeatsStatus := by
  intro b s hs hst htwo
  rw [feedByte_status hst, feedByte_data, feedByte_data, statusByte_of_twoData htwo,
    dataByte_idle_of_twoData hs htwo, dataByte_await1 rfl (by simp)]
  rfl

/-- Settles O39: the two streams lead to the same state once the real-time events are dropped from the log. -/
theorem realTimeBytesInterleaveAnywhere : Obligations.RealTimeBytesInterleaveAnywhere := by
  intro bs s
  have h := feedAll_filter_dropRealTime bs s
  have hd := congrArg State.d h
  have ht := congrArg State.t h
  have hevents := congrArg State.events h
  exact ⟨hd, ht, hevents⟩

/-- Settles O40: agreement of the parse registers is kept by every byte. -/
theorem filteringDoesNotChangeParsing : Obligations.FilteringDoesNotChangeParsing := fun bs _ _ hregs hcfg =>
  (SameParse.feedAll ⟨hregs, hcfg⟩ bs).1

/-- Settles O31: the delivery of the real-time event, by its target. -/
theorem realTimeByteResult : Obligations.RealTimeByteResult := by
  intro r s hf
  have hbyte : (0b11111#5 ++ r : Byte) = BitVec.ofNat 8 (0xF8 + r.toNat) := by
    revert r
    decide
  have hexec : exec (.midiRealtime r) s = .next (deliver (.realTime (BitVec.ofNat 8 (0xF8 + r.toNat))) s) := by
    rw [← hbyte]
    exact exec_inputByte_of_noFault hf rfl
  rw [hexec]
  refine ⟨fun ht => ?_, fun ht => ?_⟩
  · rw [deliver_of_none (ev := .realTime _) ht]
  · rw [deliver_of_host (ev := .realTime _) ht]

/-- Settles O32: for either value of `P_SC_CLEARS_RS`. -/
theorem systemCommonByteResult : Obligations.SystemCommonByteResult := fun k s hf =>
  (exec_inputByte_of_noFault (i := .midiSysCommon k) hf rfl).trans (congrArg _ (syscommonByte_eq s))

/-- Settles O33: the four statuses are those of two data bytes. -/
theorem statusByteStartsMessage : Obligations.StatusByteStartsMessage := by
  intro c s hf
  refine ⟨?_, ?_, ?_, ?_⟩ <;> rw [exec_inputByte_of_noFault hf rfl] <;>
    exact congrArg _ (statusByte_of_twoData (by simp [expectedCount, statusKind_statusOf]) s)

/-- Settles O34: the three statuses are those of no data byte, whose dispatch has no event. -/
theorem zeroDataStatusDeliversNothing : Obligations.ZeroDataStatusDeliversNothing := by
  intro c s hf
  refine ⟨?_, ?_, ?_⟩ <;> rw [exec_inputByte_of_noFault hf rfl] <;>
    exact congrArg _ (statusByte_of_zeroData (by simp [expectedCount, statusKind_statusOf]) s)

/-- Settles O35: the rule of each parse state, in IDLE by the count of the running status. -/
theorem dataByteBeforeCompletion : Obligations.DataByteBeforeCompletion := by
  intro b s hf
  have hexec : exec (.midiData b) s = .next (dataByte b s) := exec_inputByte_of_noFault hf rfl
  rw [hexec]
  refine ⟨fun hs hrs => ?_, fun hs hkind => ?_, fun hs hkind => ?_, fun hs hexp => ?_⟩
  · rw [dataByte_idle_of_noStatus hs hrs]
    rfl
  · rw [dataByte_idle_of_twoData hs (expectedCount_eq_two_iff.mpr hkind)]
  · simp only [List.mem_cons, List.not_mem_nil, or_false] at hkind
    have hne : s.d.rs ≠ 0#8 := fun h => by simp [h] at hkind
    have hzero : expectedCount s.d.rs = 0#2 := by
      rw [expectedCount_eq_zero_iff]
      simp only [List.mem_cons, List.not_mem_nil, or_false]
      omega
    rw [dataByte_idle_of_zeroData hs hne hzero]
  · rw [dataByte_await1 hs hexp]

/-- Settles O37: the combined 14-bit value is the sum on numbers. -/
theorem pitchBendValue : Obligations.PitchBendValue := by
  refine ⟨fun d1 d2 => ⟨?_, bendValue_range d1 d2⟩, rfl, rfl, rfl⟩
  rw [bendValue_eq, Nat.cast_add, Nat.cast_mul, Nat.cast_ofNat]

/-- Settles O43: the agent of the feed path is admitted, and the byte's effect is that of its class. -/
theorem decFeedAndResetResult : Obligations.DecFeedAndResetResult := by
  refine ⟨fun a s hf hagent => ⟨feedByte a s, feedExecutesDecodedByte a s hf, ?_⟩, fun s hf hC => ?_⟩
  · refine exec_of_body rfl hf ?_ rfl rfl
    obtain ⟨hpath, hissuer⟩ | ⟨hpath, hissuer⟩ := hagent <;> simp [admits, hpath, hissuer]
  · exact exec_of_body_of_C hf hC rfl rfl rfl rfl

/-- Settles O44: each setter's own effect on an operand in range. -/
theorem decoderSettersResult : Obligations.DecoderSettersResult := by
  intro s hf hC
  refine ⟨fun a hlo hhi => ⟨operandChannel a, operandChannel_toNat hhi, ?_⟩, ?_, ?_, fun b t hbt => ?_,
    fun b t hbt => ?_⟩
  · exact exec_of_body_of_C hf hC rfl rfl (decide_eq_true ⟨hlo, hhi⟩) rfl
  · exact exec_of_body_of_C hf hC rfl rfl rfl rfl
  · exact exec_of_body_of_C hf hC rfl rfl rfl rfl
  · have hb : targetOf b = some t ∧ b.toNat ≤ 2 := by
      simp only [List.mem_cons, Prod.mk.injEq, List.not_mem_nil, or_false] at hbt
      obtain ⟨rfl, rfl⟩ | ⟨rfl, rfl⟩ | ⟨rfl, rfl⟩ := hbt <;> decide
    exact ⟨exec_decSetCallback (k := .noteOn) hf hC rfl hb.1 (by simp [Instr.wellFormed, hb.2]),
      exec_decSetCallback (k := .noteOff) hf hC rfl hb.1 (by simp [Instr.wellFormed, hb.2])⟩
  · have hb : targetOf b = some t ∧ b.toNat ≤ 1 := by
      simp only [List.mem_cons, Prod.mk.injEq, List.not_mem_nil, or_false] at hbt
      obtain ⟨rfl, rfl⟩ | ⟨rfl, rfl⟩ := hbt <;> decide
    have hw : ∀ a : Byte, a.toNat ≤ 4 → (Instr.decSetCallback a b).wellFormed = true := fun a ha => by
      simp only [Instr.wellFormed, decide_eq_true_eq]
      omega
    exact ⟨exec_decSetCallback (k := .cc) hf hC rfl hb.1 (hw _ (by decide)),
      exec_decSetCallback (k := .pb) hf hC rfl hb.1 (hw _ (by decide)),
      exec_decSetCallback (k := .rt) hf hC rfl hb.1 (hw _ (by decide))⟩

/-- Settles O45: each read's response word as a number. -/
theorem registerReadsResult : Obligations.RegisterReadsResult := by
  intro s hf hC
  have hread {i : Instr} {t : State} := exec_of_body_of_C (i := i) (t := t) hf hC
  refine ⟨⟨_, ?_, hread rfl rfl rfl rfl⟩, ⟨_, respBool_toNat _, hread rfl rfl rfl rfl⟩,
    fun hlt => ⟨_, ?_, hread rfl rfl rfl rfl⟩, ⟨_, hread rfl rfl rfl rfl, fun hnil => ?_, fun l h hl => ?_⟩,
    ⟨_, hread rfl rfl rfl rfl, fun hnil => ?_, fun hne => ?_⟩⟩
  · have hchan := s.d.chan.isLt
    rw [respU8_toNat, BitVec.toNat_setWidth]
    omega
  · rw [respU8_toNat, BitVec.toNat_ofNat, heldCount]
    omega
  · have hnote := s.t.latched.isLt
    rw [respU8_toNat, soundingNote_of_held_nil hnil, BitVec.toNat_setWidth]
    omega
  · have hnote := h.note.isLt
    rw [respU8_toNat, soundingNote_of_held_append hl, BitVec.toNat_setWidth]
    omega
  · rw [gate_eq_false.mpr hnil]
    rfl
  · rw [gate_eq_true.mpr hne]
    rfl

end Sys2Proof.Proofs
end

section
/-! The note tracker (42_note_tracker.md): its commands' exact results, and the one thing an instruction other than the two
resets does to it, a note event. -/

namespace Sys2Proof.Machine

/-! The operands -/

@[simp] theorem operandData_setWidth (n : Data7) : operandData (n.setWidth 8) = n := by
  simp [operandData]

/-- A 7-bit value as an operand byte is in range (30_encoding.md R90). -/
theorem setWidth_data_le (n : Data7) : (n.setWidth 8).toNat ≤ 127 := by
  have hlt := n.isLt
  rw [BitVec.toNat_setWidth]
  omega

/-! The note operations -/

theorem isHeld_eq_false_iff {n : Data7} {t : Tracker} : isHeld n t = false ↔ n ∉ t.held.map Held.note := by
  rw [← isHeld_iff, Bool.not_eq_true]

/-- A note-on of a held note does nothing (42_note_tracker.md R170). -/
theorem trackerNoteOn_of_held {n : Data7} {t : Tracker} (h : isHeld n t = true) (cap : Nat) (v : Data7) :
    trackerNoteOn cap n v t = t := by
  simp [trackerNoteOn, h]

/-- A note-on at capacity does nothing, whatever the note (42_note_tracker.md R171). -/
theorem trackerNoteOn_of_full {cap : Nat} {t : Tracker} (h : heldCount t = cap) (n v : Data7) :
    trackerNoteOn cap n v t = t := by
  simp [trackerNoteOn, h]

/-- A note-on of a new note below or beyond the capacity appends and latches it (42_note_tracker.md R170). -/
theorem trackerNoteOn_of_new {cap : Nat} {n : Data7} {t : Tracker} (h : isHeld n t = false) (hcap : heldCount t ≠ cap)
    (v : Data7) : trackerNoteOn cap n v t = { held := t.held ++ [{ note := n, vel := v }], latched := n } := by
  simp [trackerNoteOn, h, hcap]

/-- Erasing a note takes its first entry out and leaves the entries on either side as they are. -/
theorem eraseP_note_split {n : Data7} {l : List Held} (h : n ∉ l.map Held.note) (v : Data7) (r : List Held) :
    (l ++ { note := n, vel := v } :: r).eraseP (fun x => x.note == n) = l ++ r := by
  have hl : ∀ x ∈ l, ¬(x.note == n) = true := fun x hx heq => h (List.mem_map.mpr ⟨x, hx, beq_iff_eq.mp heq⟩)
  simp [List.eraseP_append_right _ hl]

/-- A note-off removes the note's first entry (42_note_tracker.md R172; log entry 13). -/
theorem trackerNoteOff_split {n v : Data7} {t : Tracker} {l r : List Held}
    (hheld : t.held = l ++ { note := n, vel := v } :: r) (hl : n ∉ l.map Held.note) :
    trackerNoteOff n t = { held := l ++ r, latched := soundingNote { held := l ++ r, latched := t.latched } } := by
  have hn : isHeld n t = true := isHeld_iff.mpr (by simp [hheld])
  rw [trackerNoteOff_present hn, hheld, eraseP_note_split hl]

/-! The latched note of an emptied tracker (42_note_tracker.md R176) -/

/-- A note-on empties no tracker: one that is empty after it did not append. -/
theorem trackerNoteOn_latched_of_empty {cap : Nat} {n v : Data7} {t : Tracker}
    (h : (trackerNoteOn cap n v t).held = []) : (trackerNoteOn cap n v t).latched = t.latched := by
  obtain ⟨-, heq⟩ | ⟨-, -, heq⟩ := trackerNoteOn_cases cap n v t
  · rw [heq]
  · simp [heq] at h

/-- A note-off latches the last note that remains; where none remains, nothing. -/
theorem trackerNoteOff_latched_of_empty {n : Data7} {t : Tracker} (h : (trackerNoteOff n t).held = []) :
    (trackerNoteOff n t).latched = t.latched := by
  cases hn : isHeld n t with
  | false => rw [trackerNoteOff_absent hn]
  | true =>
    rw [trackerNoteOff_present hn] at h ⊢
    exact soundingNote_of_held_nil h

/-- Everything an instruction other than `TRK_RESET` and `TOP_RX_ERROR` can do to the tracker: nothing, or one note
event. -/
inductive NoteWrite (cap : Nat) (k k' : Tracker) : Prop where
  | unchanged (h : k' = k)
  | noteOn (n v : Data7) (h : k' = trackerNoteOn cap n v k)
  | noteOff (n : Data7) (h : k' = trackerNoteOff n k)

theorem NoteWrite.latched_of_empty {cap : Nat} {k k' : Tracker} (h : NoteWrite cap k k') (hempty : k'.held = []) :
    k'.latched = k.latched := by
  cases h with
  | unchanged h => rw [h]
  | noteOn n v h =>
    subst h
    exact trackerNoteOn_latched_of_empty hempty
  | noteOff n h =>
    subst h
    exact trackerNoteOff_latched_of_empty hempty

theorem deliver_noteWrite (ev : Event) (s : State) : NoteWrite s.cfg.trkCap s.t (deliver ev s).t := by
  obtain e | ⟨-, e⟩ | ⟨n, v, e⟩ | ⟨n, e⟩ := deliver_cases ev s <;> rw [e]
  · exact .unchanged rfl
  · exact .unchanged rfl
  · exact .noteOn n v rfl
  · exact .noteOff n rfl

theorem dispatch_noteWrite (st : Byte) (d1 d2 : Data7) (s : State) :
    NoteWrite s.cfg.trkCap s.t (dispatch st d1 d2 s).t := by
  obtain e | ⟨-, ev, -, e⟩ := dispatch_cases st d1 d2 s <;> rw [e]
  · exact .unchanged rfl
  · exact deliver_noteWrite ev s

theorem dispatch_withD_noteWrite (st : Byte) (d1 d2 : Data7) (d : Decoder) (s : State) :
    NoteWrite s.cfg.trkCap s.t (dispatch st d1 d2 (s.withD d)).t :=
  dispatch_noteWrite st d1 d2 (s.withD d)

/-- A status byte completes no message that has an event (41_message_decoder.md R132, R151). -/
theorem statusByte_t (st : Byte) (s : State) : (statusByte st s).t = s.t := by
  obtain h | h := expectedCount_cases st
  · rw [statusByte_of_twoData h, State.withD_t]
  · rw [statusByte_of_zeroData h, State.withD_t]

theorem dataByte_noteWrite (b : Data7) (s : State) : NoteWrite s.cfg.trkCap s.t (dataByte b s).t := by
  unfold dataByte
  split
  · split_ifs <;> exact .unchanged rfl
  · split_ifs
    · exact dispatch_withD_noteWrite _ _ _ _ s
    · exact .unchanged rfl
  · exact dispatch_withD_noteWrite _ _ _ _ s

theorem feedOf_noteWrite (i : Instr) (s : State) : NoteWrite s.cfg.trkCap s.t (feedOf i s).t := by
  cases i with
  | midiRealtime r => exact deliver_noteWrite _ s
  | midiNoteOff c => exact .unchanged (statusByte_t _ s)
  | midiNoteOn c => exact .unchanged (statusByte_t _ s)
  | midiStatusA c => exact .unchanged (statusByte_t _ s)
  | midiControlChange c => exact .unchanged (statusByte_t _ s)
  | midiStatusC c => exact .unchanged (statusByte_t _ s)
  | midiStatusD c => exact .unchanged (statusByte_t _ s)
  | midiPitchBend c => exact .unchanged (statusByte_t _ s)
  | midiData d => exact dataByte_noteWrite d s
  | _ => exact .unchanged rfl

/-- A byte fed has the effect of the input byte it decodes to. -/
theorem feedByte_noteWrite (b : Byte) (s : State) : NoteWrite s.cfg.trkCap s.t (feedByte b s).t := by
  rw [feedByte_of_encode (encode_decodeByte b)]
  exact feedOf_noteWrite _ s

theorem drainStep_noteWrite {s t : State} (h : drainStep s = .ok t) : NoteWrite s.cfg.trkCap s.t t.t := by
  obtain ⟨-, rfl⟩ | ⟨-, -, b, -, rfl⟩ := drainStep_ok.mp h
  · exact .unchanged (by simp [endUpdate])
  · exact feedByte_noteWrite b ((s.withQ { s.q with ri := advance s.cfg.qcap s.q.ri }).withBusy true)

theorem bodyOf_noteWrite {i : Instr} {s t : State} (hreset : i ≠ .trkReset) (herror : i ≠ .topRxError)
    (h : bodyOf i s = .ok t) : NoteWrite s.cfg.trkCap s.t t.t := by
  cases i with
  | trkReset => exact absurd rfl hreset
  | topRxError => exact absurd rfl herror
  | qPush a => obtain ⟨-, rfl⟩ | ⟨-, -, rfl⟩ := bodyOf_qPush.mp h <;> exact .unchanged (by simp)
  | qPop => obtain ⟨-, rfl⟩ | ⟨-, -, b, -, rfl⟩ := bodyOf_qPop.mp h <;> exact .unchanged (by simp)
  | qPeek => obtain ⟨-, rfl⟩ | ⟨-, -, b, -, rfl⟩ := bodyOf_qPeek.mp h <;> exact .unchanged (by simp)
  | topUpdate => exact drainStep_noteWrite h
  | decFeed b =>
    cases h
    rw [respond_t]
    exact feedByte_noteWrite b s
  | trkNoteOn a b =>
    cases h
    exact .noteOn _ _ (respond_t _ _)
  | trkNoteOff a =>
    cases h
    exact .noteOff _ (respond_t _ _)
  | _ =>
    cases h
    exact .unchanged (by simp)

theorem exec_noteWrite {i : Instr} {s t : State} (hreset : i ≠ .trkReset) (herror : i ≠ .topRxError)
    (h : exec i s = .next t) : NoteWrite s.cfg.trkCap s.t t.t := by
  obtain ⟨-, ⟨-, rfl⟩ | ⟨-, -, -, hbody⟩ | ⟨-, r, rfl⟩⟩ := exec_next h
  · exact feedOf_noteWrite i s
  · exact bodyOf_noteWrite hreset herror hbody
  · exact .unchanged rfl

/-! The commands -/

/-- `TRK_NOTE_ON` of C with operands in range (42_note_tracker.md R170). -/
theorem exec_trkNoteOn {s : State} (hf : s.fault = none) (hC : s.issuer = .C) (n v : Data7) :
    exec (.trkNoteOn (n.setWidth 8) (v.setWidth 8)) s =
      .next (respond 0#16 (s.withT (trackerNoteOn s.cfg.trkCap n v s.t))) := by
  have hw : (Instr.trkNoteOn (n.setWidth 8) (v.setWidth 8)).wellFormed = true :=
    decide_eq_true ⟨setWidth_data_le n, setWidth_data_le v⟩
  refine exec_of_body_of_C hf hC rfl rfl hw ?_
  rw [bodyOf, operandData_setWidth, operandData_setWidth, respNone]

/-- `TRK_NOTE_OFF` of C with its operand in range (42_note_tracker.md R172). -/
theorem exec_trkNoteOff {s : State} (hf : s.fault = none) (hC : s.issuer = .C) (n : Data7) :
    exec (.trkNoteOff (n.setWidth 8)) s = .next (respond 0#16 (s.withT (trackerNoteOff n s.t))) := by
  have hw : (Instr.trkNoteOff (n.setWidth 8)).wellFormed = true := decide_eq_true (setWidth_data_le n)
  refine exec_of_body_of_C hf hC rfl rfl hw ?_
  rw [bodyOf, operandData_setWidth, respNone]

end Sys2Proof.Machine

namespace Sys2Proof.Proofs
open Sys2Proof.Machine

/-- Settles O47: the note's first entry is what a note-off erases, and the latched note is the sounding note of the rest. -/
theorem trkNoteOffResult : Obligations.TrkNoteOffResult := by
  intro n s hf hC
  rw [exec_trkNoteOff hf hC]
  refine ⟨fun habsent => ?_, fun l v r hheld hl => ⟨_, by rw [trackerNoteOff_split hheld hl], fun hnil => ?_,
    fun k h hlast => ?_⟩⟩
  · rw [trackerNoteOff_absent (isHeld_eq_false_iff.mpr habsent), State.withT_self]
  · exact soundingNote_of_held_nil hnil
  · exact soundingNote_of_held_append hlast

/-- Settles O50: such an instruction does at most one note event to the tracker, and neither event moves the latched note
of a tracker it leaves empty. -/
theorem latchedNotePersists : Obligations.LatchedNotePersists := fun _ _ _ h hreset herror hempty =>
  (exec_noteWrite hreset herror h).latched_of_empty hempty

/-- Settles O46: the three cases of a note-on. -/
theorem trkNoteOnResult : Obligations.TrkNoteOnResult := by
  intro n v s hf hC
  rw [exec_trkNoteOn hf hC]
  refine ⟨fun hheld => ?_, fun _ hfull => ?_, fun hnew hroom => ?_⟩
  · rw [trackerNoteOn_of_held (isHeld_iff.mpr hheld), State.withT_self]
  · rw [trackerNoteOn_of_full hfull, State.withT_self]
  · rw [trackerNoteOn_of_new (isHeld_eq_false_iff.mpr hnew) hroom]

/-- Settles O48: `TRK_RESET`'s own effect, for any default note. -/
theorem trkResetResult : Obligations.TrkResetResult := fun _ hf hC =>
  exec_of_body_of_C hf hC rfl rfl rfl rfl

end Sys2Proof.Proofs
end

section
/-! The top level (43_top_level.md): the drain step that every step of an update is, what draining conserves, and the exact
results of the top-level commands. -/

namespace Sys2Proof.Machine

/-! The gate -/

/-- A note-on leaves some note held: the duplicate, the notes that fill the capacity, or the new one. -/
theorem trackerNoteOn_held_ne_nil {cap : Nat} (hcap : 1 ≤ cap) (n v : Data7) (t : Tracker) :
    (trackerNoteOn cap n v t).held ≠ [] := by
  obtain ⟨hheld | hfull, heq⟩ | ⟨-, -, heq⟩ := trackerNoteOn_cases cap n v t <;> rw [heq]
  · rw [isHeld_iff] at hheld
    intro hnil
    simp [hnil] at hheld
  · intro hnil
    simp only [heldCount, hnil, List.length_nil] at hfull
    omega
  · simp

/-- A note-off where no other note is held removes the one entry there is, as no note is held twice (10_state.md R43). -/
theorem trackerNoteOff_held_eq_nil {n : Data7} {t : Tracker} (hdistinct : (t.held.map Held.note).Nodup)
    (honly : ∀ h ∈ t.held, h.note = n) : (trackerNoteOff n t).held = [] := by
  cases hl : t.held with
  | nil => rw [trackerNoteOff_absent (by simp [isHeld, hl]), hl]
  | cons x xs =>
    rw [hl] at hdistinct honly
    obtain ⟨hx, hxs⟩ := List.forall_mem_cons.mp honly
    have hnotin : n ∉ xs.map Held.note := hx ▸ (List.nodup_cons.mp hdistinct).1
    have hnil : xs = [] :=
      List.eq_nil_iff_forall_not_mem.mpr fun y hy => hnotin (List.mem_map.mpr ⟨y, hy, hxs y hy⟩)
    have hheld : t.held = [] ++ { note := n, vel := x.vel } :: [] := by rw [hl, hnil, ← hx]; rfl
    rw [trackerNoteOff_split hheld (by simp)]
    rfl

/-! The drain step -/

theorem withBusy_of_busy {s : State} {b : Bool} (h : s.busy = b) : s.withBusy b = s := h ▸ State.withBusy_self s

/-- While an update is in progress, executing what a popped byte decodes to is what a drain step does with the byte. -/
theorem exec_decodeByte_of_busy {s : State} (hf : s.fault = none) (hb : s.busy = true) (b : Byte) (q : Queue) :
    exec (decodeByte b) (s.withQ q) = .next (feedByte b ((s.withQ q).withBusy true)) := by
  rw [withBusy_of_busy (s := s.withQ q) hb]
  exact Proofs.feedExecutesDecodedByte b (s.withQ q) hf

/-- C's turn while an update is in progress is a drain step (43_top_level.md R201). -/
theorem turnResult_eq_drainStep {s : State} (hf : s.fault = none) (hb : s.busy = true) (hC : s.issuer = .C) :
    turnResult s = finish (drainStep s) := by
  have hd : fetchTurn s = fetchDrain s := by simp [fetchTurn, hb, hC]
  rw [turnResult, hd, fetchDrain, drainStep]
  cases hp : popByte s with
  | error f => rfl
  | ok r =>
    obtain ⟨-, rfl⟩ | ⟨-, -, b, -, rfl⟩ := popByte_ok.mp hp
    · rfl
    · exact exec_decodeByte_of_busy hf hb b _

/-- The step of C that goes on with an update (43_top_level.md R201). -/
theorem step_continues_update {s : State} {rest : List Agent} (hlegal : s.cfg.legal = true) (hf : s.fault = none)
    (hb : s.busy = true) (hturns : s.turns = .C :: rest) : step s = finish (drainStep (atTurn .C rest s)) := by
  rw [step_turn hlegal hf (by simp [runEnded, hb]) hturns]
  exact turnResult_eq_drainStep hf hb rfl

/-- `TOP_UPDATE`, where it is admitted, is a drain step (log entry 9). -/
theorem exec_topUpdate {s : State} (hf : s.fault = none) (hC : s.issuer = .C) (hq : s.cfg.feedPath = .queued) :
    exec .topUpdate s = finish (drainStep s) :=
  command_admitted hf (by simp [admits, hC, hq]) rfl

/-- The step of C that issues `TOP_UPDATE` (43_top_level.md R200). -/
theorem step_issues_update {s : State} {rest : List Agent} {ws : List CmdWord} (hlegal : s.cfg.legal = true)
    (hf : s.fault = none) (hb : s.busy = false) (hq : s.cfg.feedPath = .queued) (hcmds : s.portC.cmds = 0x400000#24 :: ws)
    (hturns : s.turns = .C :: rest) : step s = finish (drainStep (taken .C ws (atTurn .C rest s))) := by
  rw [Proofs.stepRunsPresentedCommand s .C rest _ ws .topUpdate hlegal hf hturns hcmds (by simp [hb]) rfl]
  exact exec_topUpdate hf rfl hq

/-! What draining conserves -/

/-- The part of the state that feeding a byte reads and writes: the parameters, the decoder, the tracker and the event
log. The rest is as after block reset. -/
def feedPart (s : State) : State := (((State.resetWith s.cfg).withD s.d).withT s.t).withEvents s.events

theorem feedPart_eq_iff {s u : State} :
    feedPart s = feedPart u ↔ s.cfg = u.cfg ∧ s.d = u.d ∧ s.t = u.t ∧ s.events = u.events := by
  constructor
  · intro h
    exact ⟨(congrArg State.cfg h :), (congrArg State.d h :), (congrArg State.t h :), (congrArg State.events h :)⟩
  · rintro ⟨hc, hd, ht, he⟩
    rw [feedPart, feedPart, hc, hd, ht, he]

theorem deliver_feedPart (ev : Event) (s : State) : deliver ev (feedPart s) = feedPart (deliver ev s) := by
  have hd : (feedPart s).d = s.d := rfl
  cases ht : targetFor s.d.cb (eventKind ev) with
  | none => rw [deliver_of_none ht, deliver_of_none (hd ▸ ht)]
  | host =>
    rw [deliver_of_host ht, deliver_of_host (hd ▸ ht)]
    rfl
  | tracker =>
    rw [deliver_of_tracker ht, deliver_of_tracker (hd ▸ ht)]
    cases ev <;> rfl

theorem dispatch_feedPart (st : Byte) (d1 d2 : Data7) (s : State) :
    dispatch st d1 d2 (feedPart s) = feedPart (dispatch st d1 d2 s) := by
  have hd : (feedPart s).d = s.d := rfl
  unfold dispatch
  rw [hd]
  split
  · split
    · exact deliver_feedPart _ s
    · rfl
  · rfl

theorem syscommonByte_feedPart (s : State) : syscommonByte (feedPart s) = feedPart (syscommonByte s) := rfl

theorem statusByte_feedPart (st : Byte) (s : State) : statusByte st (feedPart s) = feedPart (statusByte st s) := by
  obtain h | h := expectedCount_cases st
  · rw [statusByte_of_twoData h, statusByte_of_twoData h]
    rfl
  · rw [statusByte_of_zeroData h, statusByte_of_zeroData h]
    rfl

theorem dataByte_feedPart (b : Data7) (s : State) : dataByte b (feedPart s) = feedPart (dataByte b s) := by
  have hd : (feedPart s).d = s.d := rfl
  unfold dataByte
  rw [hd]
  split
  · split_ifs <;> rfl
  · split_ifs
    · exact dispatch_feedPart _ _ _ (s.withD _)
    · rfl
  · exact dispatch_feedPart _ _ _ (s.withD _)

theorem feedByte_feedPart (b : Byte) (s : State) : feedByte b (feedPart s) = feedPart (feedByte b s) := by
  unfold feedByte
  split_ifs
  · exact deliver_feedPart _ s
  · exact syscommonByte_feedPart s
  · exact statusByte_feedPart b s
  · exact dataByte_feedPart _ s

theorem feedAll_feedPart (bs : List Byte) (s : State) : feedAll bs (feedPart s) = feedPart (feedAll bs s) := by
  induction bs generalizing s with
  | nil => rfl
  | cons b bs ih => rw [feedAll_cons, feedAll_cons, feedByte_feedPart, ih]

/-- What the decoder, the tracker and the event log will be once all queued bytes are fed (43_top_level.md R202). -/
def pending (s : State) : State := feedPart (feedAll (queuedBytes s) s)

theorem pending_eq (s : State) : pending s = feedAll (queuedBytes s) (feedPart s) := (feedAll_feedPart _ s).symm

/-- The queue, the parameters, the decoder, the tracker and the event log determine what is pending. -/
theorem pending_congr {s u : State} (hq : u.q = s.q := by simp) (hc : u.cfg = s.cfg := by simp) (hd : u.d = s.d := by simp)
    (ht : u.t = s.t := by simp) (he : u.events = s.events := by simp) : pending u = pending s := by
  rw [pending_eq, pending_eq, queuedBytes_congr hc hq, feedPart_eq_iff.mpr ⟨hc, hd, ht, he⟩]

theorem pending_respond (r : RespWord) (s : State) : pending (respond r s) = pending s := pending_congr

/-- A drain step moves the oldest byte from the queue into the decoder; all else that is pending stays. -/
theorem drainStep_pending {s t : State} (h : QueueInv s) (ht : drainStep s = .ok t) : pending t = pending s := by
  obtain ⟨-, rfl⟩ | ⟨hne, -, b, hb, rfl⟩ := drainStep_ok.mp ht
  · exact (pending_respond _ _).trans pending_congr
  · have hbytes := queuedBytes_pop h (qEmpty_eq_false.mp hne) hb
    rw [pending_eq, pending_eq, hbytes, feedAll_cons, ← feedByte_feedPart,
      queuedBytes_congr (feedByte_cfg _ _) (feedByte_q _ _)]
    rfl

/-- A push that is not dropped adds its byte at the end of what is pending (40_byte_queue.md R101). -/
theorem qPush_pending {b : Byte} {s t : State} (h : QueueInv s) (hf : s.fault = none) (hP : s.issuer = .P)
    (hfull : qFull s = false) (ht : exec (.qPush b) s = .next t) : pending t = feedByte b (pending s) := by
  rw [exec_admitted_iff rfl rfl ⟨hf, by simp [admits, hP]⟩, bodyOf_qPush] at ht
  obtain ⟨hfull', -⟩ | ⟨-, -, rfl⟩ := ht
  · simp [hfull] at hfull'
  · rw [pending_respond, pending_eq, pending_eq, queuedBytes_push b h (qFull_eq_false.mp hfull), feedAll,
      List.foldl_append]
    rfl

/-! An undisturbed update -/

theorem qEmpty_iff_qCount {s : State} (hlegal : s.cfg.legal = true) (h : QueueInv s) : qEmpty s = true ↔ qCount s = 0 := by
  obtain ⟨-, hempty, -⟩ := Proofs.occupancyConditions s (legal_qcap_range hlegal).1 h.wi_lt h.ri_lt
  exact hempty

/-- A pop leaves one byte less (10_state.md R25). -/
theorem qCount_pop {s : State} (h : QueueInv s) (hne : s.q.wi ≠ s.q.ri) :
    qCount s = qCount (s.withQ { s.q with ri := advance s.cfg.qcap s.q.ri }) + 1 := by
  have hlen := congrArg List.length (queuedSlots_pop h.wi_lt h.ri_lt hne)
  simpa only [queuedSlots, List.length_cons, List.length_map, List.length_range] using hlen

/-- C is about to take a drain step with `n` bytes queued, and its next `n` turns follow undisturbed. -/
structure DrainReady (n : Nat) (rest : List Agent) (u : State) : Prop where
  legal  : u.cfg.legal = true
  queue  : QueueInv u
  fault  : u.fault = none
  issuer : u.issuer = .C
  count  : qCount u = n
  turns  : u.turns = List.replicate n .C ++ rest

/-- On a non-empty queue the drain step leaves an update in progress, whose next step is again a drain step, with one byte
less. -/
theorem DrainReady.drainStep {n : Nat} {rest : List Agent} {u : State} (h : DrainReady (n + 1) rest u) :
    ∃ v l, drainStep u = .ok v ∧ v.portC = u.portC ∧ step v = finish (Machine.drainStep (atTurn .C l v)) ∧
      DrainReady n rest (atTurn .C l v) := by
  obtain ⟨hlegal, hqueue, hfault, -, hcount, hturns⟩ := h
  have hempty : qEmpty u = false := by
    rw [← Bool.not_eq_true, qEmpty_iff_qCount hlegal hqueue]
    omega
  have hne := qEmpty_eq_false.mp hempty
  obtain ⟨b, hb⟩ := oldest_written hqueue hne
  have hpop := Nat.succ.inj (hcount.symm.trans (qCount_pop hqueue hne))
  refine ⟨_, List.replicate n .C ++ rest, drainStep_ok.mpr (.inr ⟨hempty, hqueue.ri_lt, b, hb, rfl⟩), ?_, ?_, ?_⟩
  · simp
  · exact step_continues_update (by simpa using hlegal) (by simpa using hfault) (by simp)
      (by simpa [List.replicate_succ] using hturns)
  · exact ⟨by simpa using hlegal, (hqueue.pop hne).congr (by simp) (by simp), by simpa using hfault, rfl,
      by simpa [qCount] using hpop.symm, rfl⟩

/-- What an undisturbed update has done in `t` when its first drain step starts in `u`, `rest` being the turns it
leaves. -/
structure UpdateEnded (rest : List Agent) (u t : State) : Prop where
  busy    : t.busy = false
  fault   : t.fault = none
  turns   : t.turns = rest
  empty   : t.q.wi = t.q.ri
  portC   : t.portC = { u.portC with resp := u.portC.resp ++ [0#16] }
  keeps   : KeepsProducer False u t
  pending : pending t = pending u

/-- With nothing left to drain, what was pending is there. -/
theorem UpdateEnded.feedPart_eq {rest : List Agent} {u t : State} (h : UpdateEnded rest u t) :
    feedPart t = Machine.pending u := by
  rw [← h.pending, pending_eq, queuedBytes_empty h.empty, feedAll_nil]

/-- On an empty queue the drain step is the last (43_top_level.md R200). -/
theorem DrainReady.endUpdate {rest : List Agent} {u : State} (h : DrainReady 0 rest u) :
    Machine.drainStep u = .ok (endUpdate u) ∧ UpdateEnded rest u (endUpdate u) := by
  have hempty := (qEmpty_iff_qCount h.legal h.queue).mpr h.count
  have hlast : Machine.drainStep u = .ok (Machine.endUpdate u) := drainStep_ok.mpr (.inl ⟨hempty, rfl⟩)
  exact ⟨hlast, {
    busy := by simp [Machine.endUpdate]
    fault := by simpa [Machine.endUpdate] using h.fault
    turns := by simpa [Machine.endUpdate] using h.turns
    empty := by simpa [Machine.endUpdate] using qEmpty_eq_true.mp hempty
    portC := by simp [Machine.endUpdate, respond, h.issuer, respNone]
    keeps := endUpdate_keepsProducer _ h.issuer
    pending := drainStep_pending h.queue hlast }⟩

/-- One drain step and an undisturbed update after it are an undisturbed update. -/
theorem UpdateEnded.after_drainStep {rest l : List Agent} {u v t : State} (hC : u.issuer = .C) (hqueue : QueueInv u)
    (hv : drainStep u = .ok v) (hportC : v.portC = u.portC) (h : UpdateEnded rest (atTurn .C l v) t) :
    UpdateEnded rest u t where
  busy := h.busy
  fault := h.fault
  turns := h.turns
  empty := h.empty
  portC := by rw [h.portC, atTurn_portC, hportC]
  keeps := (drainStep_keepsProducer hC hv).trans ⟨h.keeps.mem, h.keeps.portP, h.keeps.wi⟩
  pending := by rw [h.pending, ← drainStep_pending hqueue hv, pending_congr (s := v)]

/-- A run of C's steps from the first drain step on ends the update: by induction on the number of queued bytes. -/
theorem run_update {n : Nat} {rest : List Agent} {s u : State} (hstep : step s = finish (drainStep u))
    (h : DrainReady n rest u) : ∃ t, Host.Core.run Sys2Proof.core (n + 1) s = .next t ∧ UpdateEnded rest u t := by
  induction n generalizing s u with
  | zero =>
    obtain ⟨hlast, hended⟩ := h.endUpdate
    exact ⟨_, run_succ 0 (hstep.trans (finish_next.mpr hlast)), hended⟩
  | succ n ih =>
    obtain ⟨v, l, hv, hportC, hnext, hready⟩ := h.drainStep
    obtain ⟨t, hrun, hended⟩ := ih hnext hready
    exact ⟨t, (run_succ _ (hstep.trans (finish_next.mpr hv))).trans hrun,
      hended.after_drainStep h.issuer h.queue hv hportC⟩

end Sys2Proof.Machine

namespace Sys2Proof.Proofs
open Sys2Proof.Machine

/-- Settles O54: every step of an update is a drain step, which conserves what is pending, and a push adds its byte to it. -/
theorem drainOrderIndependence : Obligations.DrainOrderIndependence := by
  intro s t h hf hstep
  refine ⟨fun rest hturns hupdate => ?_, fun rest b ws hturns hcmds hfull => ?_⟩
  · have hpending : pending t = pending s := by
      obtain hb | ⟨hb, hq, ws, hcmds⟩ := hupdate
      · rw [step_continues_update h.legal hf hb hturns, finish_next] at hstep
        rw [drainStep_pending (h.atTurn _ _).queue hstep]
        exact pending_congr
      · rw [step_issues_update h.legal hf hb hq hcmds hturns, finish_next] at hstep
        rw [drainStep_pending ((h.atTurn _ _).taken _ _).queue hstep]
        exact pending_congr
    exact (feedPart_eq_iff.mp hpending).2
  · rw [stepRunsPresentedCommand s .P rest _ ws (.qPush b) h.legal hf hturns hcmds (by simp)
      (decodeCmd_cmdOf_a rfl b)] at hstep
    have hqueue := ((h.atTurn .P rest).taken .P ws).queue
    have hpending : pending t = feedByte b (pending s) :=
      (qPush_pending hqueue hf rfl hfull hstep).trans (congrArg _ pending_congr)
    exact (feedPart_eq_iff.mp (hpending.trans (feedByte_feedPart b _))).2

/-- Settles O51: a note-on leaves a note held, and the gate says whether one is. -/
theorem gateAfterNoteEvents : Obligations.GateAfterNoteEvents := fun n v s hcap =>
  ⟨gate_eq_true.mpr (trackerNoteOn_held_ne_nil hcap n v s.t), gate_eq_false,
    fun honly h => gate_eq_false.mpr (trackerNoteOff_held_eq_nil h.distinct honly)⟩

/-- Settles O53: the issuing step starts a run of drain steps, and what was pending is there when the queue is empty. -/
theorem updateDrainsQueuedBytes : Obligations.UpdateDrainsQueuedBytes := by
  intro s ws rest h hf hb hq hcmds hturns
  have hready : DrainReady (qCount s) rest (taken .C ws (atTurn .C (List.replicate (qCount s) .C ++ rest) s)) :=
    ⟨h.legal, ((h.atTurn _ _).taken _ _).queue, hf, rfl, rfl, rfl⟩
  obtain ⟨t, hrun, hended⟩ := run_update (step_issues_update h.legal hf hb hq hcmds hturns) hready
  obtain ⟨-, hd, ht, hevents⟩ := feedPart_eq_iff.mp (hended.feedPart_eq.trans (pending_congr (s := s)))
  obtain ⟨hmem, hportP, hwi⟩ := hended.keeps
  have hwi' : t.q.wi = s.q.wi := hwi id
  exact ⟨t, hrun, hended.busy, hended.fault, hended.turns, hmem, hwi', hended.empty ▸ hwi', hd, ht, hevents,
    congrArg Port.cmds hended.portC, congrArg Port.resp hended.portC, hportP⟩

/-- Settles O15: C's step goes on with the update, by the two cases of a drain step. -/
theorem stepRunsDrainedByte : Obligations.StepRunsDrainedByte := by
  intro s rest hlegal hf hb hturns
  rw [step_continues_update hlegal hf hb hturns]
  refine ⟨fun b hne hri hmem => ?_, fun hempty => ?_⟩
  · rw [exec_decodeByte_of_busy (s := (s.withTurns rest).withIssuer .C) hf hb, finish_next, drainStep_ok]
    exact .inr ⟨qEmpty_eq_false.mpr hne, hri, b, hmem, rfl⟩
  · rw [finish_next, drainStep_ok]
    exact .inl ⟨qEmpty_eq_true.mpr hempty, rfl⟩

/-- Settles O52: the two cases of a drain step. -/
theorem topUpdateResult : Obligations.TopUpdateResult := by
  intro s hf hC hq
  rw [exec_topUpdate hf hC hq]
  refine ⟨fun hempty => ?_, fun b hne hri hb => ?_⟩ <;> rw [finish_next, drainStep_ok]
  · exact .inl ⟨qEmpty_eq_true.mpr hempty, rfl⟩
  · exact .inr ⟨qEmpty_eq_false.mpr hne, hri, b, hb, rfl⟩

/-- Settles O55: the command's own effect for each value of the parameter. -/
theorem topRxErrorResult : Obligations.TopRxErrorResult := by
  intro s hf hC
  refine ⟨fun hreset => ?_, fun hreset => ?_⟩ <;> refine exec_of_body_of_C hf hC rfl rfl rfl ?_ <;>
    simp only [bodyOf, hreset] <;> rfl

/-- Settles O59: the division by twelve is exact. -/
theorem referenceVoltage : Obligations.ReferenceVoltage := by
  intro s
  rw [voltage, div_mul_cancel₀ _ (by norm_num)]
  push_cast
  rfl

end Sys2Proof.Proofs
end

section
/-! Faults (60_exceptions.md): the sticky fault register, the fault entry of a command its agent may not issue, and the
precision and absence of a fault over all instructions. -/

namespace Sys2Proof.Machine

/-! The fault register -/

/-- An input byte writes no fault (30_encoding.md R86). -/
@[simp] theorem feedOf_fault (i : Instr) (s : State) : (feedOf i s).fault = s.fault := by
  rw [feedOf_frame]
  rfl

/-- While a fault is recorded a command stops before its other checks (60_exceptions.md R223). -/
theorem command_stopped {s : State} {r : FaultRecord} (h : s.fault = some r) (i : Instr)
    (body : State → Except Fault State) : command i body s = .fault (.stopped r) := by
  simp [command, h]

theorem inputByte_stopped {s : State} {r : FaultRecord} (h : s.fault = some r) (body : State → State) :
    inputByte body s = .fault (.stopped r) := by
  simp [inputByte, h]

theorem exec_stopped {s : State} {r : FaultRecord} (h : s.fault = some r) (i : Instr) :
    exec i s = .fault (.stopped r) := by
  cases hb : isInputByte i
  · rw [exec_command s hb, command_stopped h]
  · rw [exec_inputByte s hb, inputByte_stopped h]

theorem step_stopped {s : State} {r : FaultRecord} (hlegal : s.cfg.legal = true) (h : s.fault = some r) :
    step s = .fault (.stopped r) := by
  simp [step, fetch, hlegal, h]

/-! Admission -/

/-- The commands P may issue with any parameters (60_exceptions.md R226). -/
theorem admits_P_cases {p : Params} {i : Instr} (hb : isInputByte i = false) (h : admits p .P i = true) :
    (∃ a, i = .qPush a) ∨ (∃ a, i = .decFeed a) ∨ i = .qIsFull ∨ i = .qIsEmpty := by
  cases i with
  | qPush a => exact .inl ⟨a, rfl⟩
  | decFeed a => exact .inr (.inl ⟨a, rfl⟩)
  | qIsFull => exact .inr (.inr (.inl rfl))
  | qIsEmpty => exact .inr (.inr (.inr rfl))
  | _ => simp [isInputByte, encode, admits] at hb h

/-- A command its agent may not issue has no effect but the fault entry, whatever its operands (60_exceptions.md R224). -/
theorem exec_unadmitted {i : Instr} {s : State} (hf : s.fault = none) (hb : isInputByte i = false)
    (ha : admits s.cfg s.issuer i = false) : exec i s = .next (raiseFault .context (commandWord i) s) := by
  rw [exec_command s hb, command_next]
  exact ⟨hf, .inr (.inr ⟨ha, rfl⟩)⟩

/-- Where its agent is admitted and its operands are in range, an instruction answers a next state with its own effect
alone, which records no fault. -/
theorem exec_completes {i : Instr} {s : State} (h : QueueInv s) (hf : s.fault = none)
    (ha : admits s.cfg s.issuer i = true) (hw : i.wellFormed = true) : ∃ t, exec i s = .next t ∧ t.fault = none := by
  cases hb : isInputByte i
  · obtain ⟨t, hbody⟩ := bodyOf_total h i
    obtain ⟨-, hfault, -⟩ := bodyOf_keeps hbody
    exact ⟨t, exec_of_body hb hf ha hw hbody, hfault.trans hf⟩
  · exact ⟨feedOf i s, exec_inputByte_of_noFault hf hb, (feedOf_fault i s).trans hf⟩

end Sys2Proof.Machine

namespace Sys2Proof.Proofs
open Sys2Proof.Machine

/-- Settles O21: no effect of an instruction's own writes the fault register, so a recorded fault is the fault entry's. -/
theorem faultedCommandWritesOnlyFault : Obligations.FaultedCommandWritesOnlyFault := by
  intro i s t h hfault
  obtain ⟨hf, ⟨-, rfl⟩ | ⟨-, -, -, hbody⟩ | ⟨-, r, rfl⟩⟩ := exec_next h
  · exact absurd ((feedOf_fault i s).trans hf) hfault
  · obtain ⟨-, hkeeps, -⟩ := bodyOf_keeps hbody
    exact absurd (hkeeps.trans hf) hfault
  · exact ⟨r, rfl⟩

/-- Settles O22: under the queue's invariant every instruction's own effect is defined, and it records no fault. -/
theorem admittedInstructionCompletes : Obligations.AdmittedInstructionCompletes :=
  fun _ _ h ⟨hf, ha⟩ hw => exec_completes h.queue hf ha hw

/-- Settles O17: the fault register is the first check of every instruction and of the step. -/
theorem noStepAfterFault : Obligations.NoStepAfterFault :=
  fun _ _ h => ⟨exec_stopped h, fun hlegal => step_stopped hlegal h⟩

/-- Settles O19: each row of 60_exceptions.md R226 fails the admission check, which comes before the operands'. -/
theorem unadmittedCommandRecordsContext : Obligations.UnadmittedCommandRecordsContext := by
  intro i s hf hb h
  refine exec_unadmitted hf hb ?_
  obtain ⟨⟨a, rfl⟩, hC⟩ | ⟨⟨a, rfl⟩, ⟨hpath, hP⟩ | ⟨hpath, hC⟩⟩ | ⟨rfl, hP | hpath⟩ |
    ⟨hpush, hfeed, -, hfull, hempty, hP⟩ := h
  · simp [admits, hC]
  · simp [admits, hpath, hP]
  · simp [admits, hpath, hC]
  · simp [admits, hP]
  · simp [admits, hpath]
  · refine Bool.eq_false_iff.mpr fun hadmit => ?_
    rw [hP] at hadmit
    obtain ⟨a, rfl⟩ | ⟨a, rfl⟩ | rfl | rfl := admits_P_cases hb hadmit
    · exact hpush a rfl
    · exact hfeed a rfl
    · exact hfull rfl
    · exact hempty rfl

end Sys2Proof.Proofs
end

section
/-! The end of a run and the turns that only pass (70_reset_and_hazards.md R266, 20_memory.md R69). -/

namespace Sys2Proof.Machine

/-- With no fault recorded, the run has ended exactly where neither port has a command and no update is in progress. -/
theorem runEnded_eq_true {s : State} (hf : s.fault = none) :
    runEnded s = true ↔ s.portP.cmds = [] ∧ s.portC.cmds = [] ∧ s.busy = false := by
  simp [runEnded, hf, and_assoc]

/-- A command at either port or an update in progress is work left. -/
theorem runEnded_of_work {s : State} (h : s.portP.cmds ≠ [] ∨ s.portC.cmds ≠ [] ∨ s.busy = true) :
    runEnded s = false := by
  obtain h | h | h := h <;> simp [runEnded, h]

/-- An ended run has no step. -/
theorem step_runEnded {s : State} (hl : s.cfg.legal = true) (hf : s.fault = none) (he : runEnded s = true) :
    step s = .refused .runEnded := by
  simp [step, fetch, hl, hf, he]

/-- While work is left, a step needs a turn. -/
theorem step_noTurnChosen {s : State} (hl : s.cfg.legal = true) (hf : s.fault = none) (he : runEnded s = false)
    (ht : s.turns = []) : step s = .refused .noTurnChosen := by
  simp [step, fetch, hl, hf, he, ht]

/-- A turn that is no drain step passes where its agent has no command presented. -/
theorem turnResult_passes {s : State} (hcmds : (s.port s.issuer).cmds = []) (h : ¬ (s.issuer = .C ∧ s.busy = true)) :
    turnResult s = .next s := by
  obtain ⟨-, hpass⟩ | ⟨w, ws, hw, -⟩ := turnResult_command h
  · exact hpass
  · cases hcmds.symm.trans hw

end Sys2Proof.Machine

namespace Sys2Proof.Proofs
open Sys2Proof.Machine

/-- Settles O18: the end of the run is checked before the turn, and a turn that is no drain step looks at its agent's
port only. -/
theorem runEndHasNoStep : Obligations.RunEndHasNoStep := by
  intro s hlegal hf
  refine ⟨fun hP hC hb => ?_, fun hwork hturns => ?_, fun a rest hwork hturns hcmds hdrain => ?_⟩
  · exact step_runEnded hlegal hf ((runEnded_eq_true hf).mpr ⟨hP, hC, hb⟩)
  · exact step_noTurnChosen hlegal hf (runEnded_of_work hwork) hturns
  · rw [step_turn hlegal hf (runEnded_of_work hwork) hturns]
    exact turnResult_passes (s := atTurn a rest s) (by simpa using hcmds) hdrain

end Sys2Proof.Proofs
end
